-- ==== Sys2Proof/Word.lean ====
section
/-! DEFINITION. The widths of the block's channels: bytes on the memory and I/O side (R75), 32-bit host
words and 64-bit bus words (R110), 16-bit memory and port addresses (R70), 32-bit timestamps (R23). -/

namespace Sys2Proof

/-- One byte on the memory or I/O side (R75). -/
abbrev Byte := BitVec 8

/-- A format-H command word (R111). -/
abbrev HostWord := BitVec 32

/-- A format-B bus-cycle word (R115). -/
abbrev BusWord := BitVec 64

/-- A logical memory address or a port address (R70). -/
abbrev Addr := BitVec 16

/-- A frame-relative timestamp (R23). -/
abbrev Stamp := BitVec 32

end Sys2Proof
end

