-- ==== Sys2Proof/Syntax.lean ====
section
/-! DEFINITION. The operations of the block: sixteen host commands (R112) and eight bus cycles (R116), one constructor
per row of the opcode table. -/

namespace Sys2Proof

/-- One host command or one bus cycle, with the fields its row gives it. -/
inductive Instr where
  /-- RUN_FRAME, R197. -/
  | runFrame
  /-- ENSURE_FRAME, R196. -/
  | ensureFrame
  /-- STEP with its DBG bit, R199. -/
  | step (dbg : Bool)
  /-- RESET with its HARD bit, R200. -/
  | reset (hard : Bool)
  /-- NMI, R202. -/
  | nmi
  /-- MAP_PAGED with POOL (0 DOCK, 1 EX) and MASK, R252. -/
  | mapPaged (pool : Bool) (mask : BitVec 8)
  /-- MAP_ROM_BANK, R253. -/
  | mapRomBank (slot bank : BitVec 8)
  /-- MAP_RAM_BANK, R254. -/
  | mapRamBank (slot bank : BitVec 8)
  /-- RDREG with the register number and its index, R371. -/
  | rdreg (reg : BitVec 8) (idx : BitVec 16)
  /-- WRREG with the register number and the value, R372. -/
  | wrreg (reg value : BitVec 8)
  /-- ATTACH with the parent index (0xFF top level) and the tag, R341. -/
  | attach (parent : BitVec 8) (tag : BitVec 16)
  /-- DETACH, R342. -/
  | detach (tag : BitVec 16)
  /-- FIND, R343. -/
  | find (tag : BitVec 16)
  /-- SAVE, R378. -/
  | save
  /-- RESTORE, R380 and R381. -/
  | restore
  /-- SWAP_VARIANT with the variant tag, R383. -/
  | swapVariant (variant : BitVec 8)
  /-- FETCH, R261. -/
  | fetch (addr : Addr) (ts : Stamp)
  /-- MEM_READ, R262. -/
  | memRead (addr : Addr) (ts : Stamp)
  /-- MEM_WRITE, R263. -/
  | memWrite (data : Byte) (addr : Addr) (ts : Stamp)
  /-- IO_READ, R352. -/
  | ioRead (port : Addr) (ts : Stamp)
  /-- IO_WRITE, R353. -/
  | ioWrite (data : Byte) (port : Addr) (ts : Stamp)
  /-- CONTEND, R264. -/
  | contend (addr : Addr) (ts : Stamp)
  /-- INT_SAMPLE, R204; its ADDR must be 0. -/
  | intSample (ts : Stamp)
  /-- INT_ACK, R205; its ADDR is any and ignored. -/
  | intAck (addr : Addr) (ts : Stamp)
  deriving DecidableEq, Repr

/-- The channel an operation arrives on (R110). -/
inductive Channel where
  | host
  | bus
  deriving DecidableEq, Repr

/-- The channel of each operation (R110, R112, R116). -/
def Instr.channel : Instr → Channel
  | .runFrame => .host
  | .ensureFrame => .host
  | .step _ => .host
  | .reset _ => .host
  | .nmi => .host
  | .mapPaged _ _ => .host
  | .mapRomBank _ _ => .host
  | .mapRamBank _ _ => .host
  | .rdreg _ _ => .host
  | .wrreg _ _ => .host
  | .attach _ _ => .host
  | .detach _ => .host
  | .find _ => .host
  | .save => .host
  | .restore => .host
  | .swapVariant _ => .host
  | .fetch _ _ => .bus
  | .memRead _ _ => .bus
  | .memWrite _ _ _ => .bus
  | .ioRead _ _ => .bus
  | .ioWrite _ _ _ => .bus
  | .contend _ _ => .bus
  | .intSample _ => .bus
  | .intAck _ _ => .bus

end Sys2Proof
end

