-- ==== Sys2Proof/WellFormed.lean ====
section
/-! DEFINITION. Which operations have a word (R112, R113): every field at every value, but ATTACH refuses tag 0. -/

namespace Sys2Proof

/-- An operation that some word of its channel spells. The one check is ATTACH's "device tag, not 0" (R112). -/
def Instr.wellFormed : Instr → Bool
  | .runFrame => true
  | .ensureFrame => true
  | .step _ => true
  | .reset _ => true
  | .nmi => true
  | .mapPaged _ _ => true
  | .mapRomBank _ _ => true
  | .mapRamBank _ _ => true
  | .rdreg _ _ => true
  | .wrreg _ _ => true
  | .attach _ tag => tag != 0
  | .detach _ => true
  | .find _ => true
  | .save => true
  | .restore => true
  | .swapVariant _ => true
  | .fetch _ _ => true
  | .memRead _ _ => true
  | .memWrite _ _ _ => true
  | .ioRead _ _ => true
  | .ioWrite _ _ _ => true
  | .contend _ _ => true
  | .intSample _ => true
  | .intAck _ _ => true

end Sys2Proof
end

