-- ==== Sys2Proof/Decode.lean ====
section
/-! DEFINITION. The decoders of the two channels (R110 to R117), total and rejecting by name, then the encoder written
from the same tables, the byte layout of a word (R76), and the assembler's spelling (R137 to R139). -/

namespace Sys2Proof

/-- Why a word spells no operation (R113, R117). -/
inductive Reject where
  /-- OPC 0x00 or 0x11 to 0xFF (R113). -/
  | reservedOpcode
  /-- a "must be 0" field of R112 that is not 0 (R113). -/
  | mustBeZero
  /-- ATTACH with tag 0 (R113). -/
  | attachTagZero
  /-- KIND 0x0 or 0x9 to 0xF (R117). -/
  | reservedKind
  /-- bits 59:56 not 0 (R117). -/
  | busMustBeZero
  /-- DATA not 0 for a kind that does not write (R117). -/
  | dataNotZero
  /-- ADDR not 0 for INT_SAMPLE (R117). -/
  | addrNotZero
  /-- neither 4 bytes nor 8 bytes: no channel carries such a word (R110). -/
  | badLength
  deriving DecidableEq, Repr

/-- Accept `i` if the "must be 0" fields are 0 (R113). -/
def requireZero (ok : Bool) (i : Instr) : Except Reject Instr := if ok then .ok i else .error .mustBeZero

/-- Format H by its fields OPC, SUB and ARG (R111, R112). -/
def decodeHostFields (opc sub : BitVec 8) (arg : BitVec 16) : Except Reject Instr :=
  let subZero := sub == 0
  let subFlag := sub.extractLsb' 1 7 == 0
  let argZero := arg == 0
  let argByte := arg.extractLsb' 8 8 == 0
  let flag := sub.getLsbD 0
  let low := arg.extractLsb' 0 8
  match opc.toNat with
  | 0x01 => requireZero (subZero && argZero) .runFrame
  | 0x02 => requireZero (subZero && argZero) .ensureFrame
  | 0x03 => requireZero (subFlag && argZero) (.step flag)
  | 0x04 => requireZero (subFlag && argZero) (.reset flag)
  | 0x05 => requireZero (subZero && argZero) .nmi
  | 0x06 => requireZero (subFlag && argByte) (.mapPaged flag low)
  | 0x07 => requireZero argByte (.mapRomBank sub low)
  | 0x08 => requireZero argByte (.mapRamBank sub low)
  | 0x09 => .ok (.rdreg sub arg)
  | 0x0A => requireZero argByte (.wrreg sub low)
  | 0x0B => if arg == 0 then .error .attachTagZero else .ok (.attach sub arg)
  | 0x0C => requireZero subZero (.detach arg)
  | 0x0D => requireZero subZero (.find arg)
  | 0x0E => requireZero (subZero && argZero) .save
  | 0x0F => requireZero (subZero && argZero) .restore
  | 0x10 => requireZero argZero (.swapVariant sub)
  | _ => .error .reservedOpcode

/-- The decoder of the host channel (R111 to R113). -/
def decodeHost (w : HostWord) : Except Reject Instr :=
  decodeHostFields (w.extractLsb' 24 8) (w.extractLsb' 16 8) (w.extractLsb' 0 16)

/-- Accept `i` if DATA is 0, as every kind that does not write asks (R115, R117). -/
def requireNoData (data : Byte) (i : Instr) : Except Reject Instr :=
  if data == 0 then .ok i else .error .dataNotZero

/-- Format B by its fields KIND, DATA, ADDR and TS, bits 59:56 already checked (R115, R116). -/
def decodeBusFields (kind : BitVec 4) (data : Byte) (addr : Addr) (ts : Stamp) : Except Reject Instr :=
  match kind.toNat with
  | 0x1 => requireNoData data (.fetch addr ts)
  | 0x2 => requireNoData data (.memRead addr ts)
  | 0x3 => .ok (.memWrite data addr ts)
  | 0x4 => requireNoData data (.ioRead addr ts)
  | 0x5 => .ok (.ioWrite data addr ts)
  | 0x6 => requireNoData data (.contend addr ts)
  | 0x7 => if addr == 0 then requireNoData data (.intSample ts) else .error .addrNotZero
  | 0x8 => requireNoData data (.intAck addr ts)
  | _ => .error .reservedKind

/-- The decoder of the bus channel (R115 to R117). -/
def decodeBus (w : BusWord) : Except Reject Instr :=
  if w.extractLsb' 56 4 == 0 then
    decodeBusFields (w.extractLsb' 60 4) (w.extractLsb' 48 8) (w.extractLsb' 32 16) (w.extractLsb' 0 32)
  else .error .busMustBeZero

/-- Little-endian bytes of a number, byte 0 first (R76). -/
def leBytes (n v : Nat) : List Byte := (List.range n).map fun i => BitVec.ofNat 8 (v >>> (8 * i))

/-- The number little-endian bytes spell (R76). -/
def leNat : List Byte → Nat
  | [] => 0
  | b :: bs => b.toNat + 256 * leNat bs

/-- The decoder on bytes: a word's length is its channel's (R110), its byte order little-endian (R76). -/
def decode (bytes : List Byte) : Except Reject Instr :=
  match bytes.length with
  | 4 => decodeHost (BitVec.ofNat 32 (leNat bytes))
  | 8 => decodeBus (BitVec.ofNat 64 (leNat bytes))
  | _ => .error .badLength

/-- A format-H word from its fields (R111). -/
def hostWord (opc sub : BitVec 8) (arg : BitVec 16) : HostWord := opc ++ sub ++ arg

/-- A flag in bit 0 of SUB (R112). -/
def flagByte (b : Bool) : BitVec 8 := if b then 1 else 0

/-- A byte in ARG[7:0] (R112). -/
def argOfByte (v : BitVec 8) : BitVec 16 := (0 : BitVec 8) ++ v

/-- A format-B word from its fields, bits 59:56 zero (R115). -/
def busWord (kind : BitVec 4) (data : Byte) (addr : Addr) (ts : Stamp) : BusWord :=
  kind ++ (0 : BitVec 4) ++ data ++ addr ++ ts

/-- A word of either channel. -/
inductive Word where
  | host (w : HostWord)
  | bus (w : BusWord)
  deriving DecidableEq, Repr

/-- The word of an operation (R112, R116); the word of a well-formed one decodes to it. INT_ACK keeps its ADDR. -/
def encode : Instr → Word
  | .runFrame => .host (hostWord 0x01 0 0)
  | .ensureFrame => .host (hostWord 0x02 0 0)
  | .step dbg => .host (hostWord 0x03 (flagByte dbg) 0)
  | .reset hard => .host (hostWord 0x04 (flagByte hard) 0)
  | .nmi => .host (hostWord 0x05 0 0)
  | .mapPaged pool mask => .host (hostWord 0x06 (flagByte pool) (argOfByte mask))
  | .mapRomBank slot bank => .host (hostWord 0x07 slot (argOfByte bank))
  | .mapRamBank slot bank => .host (hostWord 0x08 slot (argOfByte bank))
  | .rdreg reg idx => .host (hostWord 0x09 reg idx)
  | .wrreg reg value => .host (hostWord 0x0A reg (argOfByte value))
  | .attach parent tag => .host (hostWord 0x0B parent tag)
  | .detach tag => .host (hostWord 0x0C 0 tag)
  | .find tag => .host (hostWord 0x0D 0 tag)
  | .save => .host (hostWord 0x0E 0 0)
  | .restore => .host (hostWord 0x0F 0 0)
  | .swapVariant variant => .host (hostWord 0x10 variant 0)
  | .fetch addr ts => .bus (busWord 0x1 0 addr ts)
  | .memRead addr ts => .bus (busWord 0x2 0 addr ts)
  | .memWrite data addr ts => .bus (busWord 0x3 data addr ts)
  | .ioRead port ts => .bus (busWord 0x4 0 port ts)
  | .ioWrite data port ts => .bus (busWord 0x5 data port ts)
  | .contend addr ts => .bus (busWord 0x6 0 addr ts)
  | .intSample ts => .bus (busWord 0x7 0 0 ts)
  | .intAck addr ts => .bus (busWord 0x8 0 addr ts)

/-- The decoder of a word's own channel. -/
def decodeWord : Word → Except Reject Instr
  | .host w => decodeHost w
  | .bus w => decodeBus w

/-- The bytes of a word, least significant first (R76). -/
def wordBytes : Word → List Byte
  | .host w => leBytes 4 w.toNat
  | .bus w => leBytes 8 w.toNat

/-- The word the opcode table numbers: up to 32 bits it is a host word, beyond that a bus word (R110). -/
def tableWord (nbits w : Nat) : Word :=
  if nbits ≤ 32 then .host (BitVec.ofNat 32 w) else .bus (BitVec.ofNat 64 w)

/-- The operation this decoder reads from a word of the opcode table: its bytes as the channel carries them, decoded. -/
def decodeTableWord (nbits w : Nat) : Option Instr := (decode (wordBytes (tableWord nbits w))).toOption

/-- The pseudo-instruction FRAME (R139). -/
def asmFrame : Instr := .runFrame

/-- The pseudo-instruction BORDER v (R139); register number 0x10 (R120). -/
def asmBorder (v : BitVec 8) : Instr := .wrreg 0x10 v

/-- The pseudo-instruction HOME (R139). -/
def asmHome : Instr := .mapPaged false 0

/-- RESET with no operand is RESET soft (R139). -/
def asmReset : Instr := .reset false

/-- ATTACH with the parent omitted (R137, R139). -/
def asmAttach (tag : BitVec 16) : Instr := .attach 0xFF tag

end Sys2Proof
end

