-- ==== Sys2Proof/Config.lean ====
section
/-! DEFINITION. What an instance fixes at construction (the record CFG of R9; its validity is in Machine/Setup.lean), the
bank-table entry (R42), and the free values: constants without a body, so that a statement about them holds whatever they are. -/

namespace Sys2Proof

/-- The closed variant set (R4, R388). -/
inductive Variant where
  | base
  | paged
  | scld
  deriving DecidableEq, Repr

/-- KIND of a bank-table entry (R42); the reserved values 4 to 7 are never held. -/
inductive SlotKind where
  | rom
  | ram
  | dock
  | unpopulated
  deriving DecidableEq, Repr

/-- SRC of a bank-table entry (R42). -/
inductive SlotSrc where
  | home
  | ex
  | dock
  | fixed
  deriving DecidableEq, Repr

/-- One entry of the bank table (R42). -/
structure Slot where
  kind : SlotKind
  src  : SlotSrc
  bank : BitVec 8
  cont : Bool
  deriving DecidableEq, Repr

/-- The configuration record CFG (R9). Fields a variant does not have are ignored for it. `images` names the
function-valued parameters handed over with the record (ROM_IMAGE, DOCK_IMAGE, io_wait_SCLD); log entry 8. -/
structure Cfg where
  variant          : Variant
  n                : Nat
  l                : Nat
  visibleLines     : Nat
  slotCount        : Nat
  slotSize         : Nat
  romBanks         : Nat
  reservedRomBanks : Nat
  exPoolBase       : Nat
  ramBanks         : Nat
  dockBanks        : Nat
  dockPresent      : Bool
  dockWritable     : Bool
  contStart        : Nat
  contLines        : Nat
  contWindow       : Nat
  contPattern      : List Nat
  intLength        : Nat
  logCapacity      : Nat
  devMax           : Nat
  scldPortReadback : Bool
  images           : Nat
  deriving DecidableEq, Repr

namespace Config

/-- The spec's identity string (R2); no rule depends on it. -/
def identity : String := "SPECTRUSTY-CORE/v7"

/-- `draw(FLOATING)` (R355): the byte of draw `k`, with no constraint. Log entry 6. -/
opaque floating (k : Nat) : Byte

/-- `draw(ULA_INPUT)` (R347): the byte of draw `k`, with no constraint. Log entry 7. -/
opaque ulaInput (k : Nat) : Byte

/-- `draw(RAM_INIT)` (R51, R384): what draw `g` puts at linear RAM address `a`, with no constraint. Log entry 5. -/
opaque ramInit (g a : Nat) : Byte

/-- `ROM_IMAGE[bank][off]` of the images `img` (R50, R390). Log entry 8. -/
opaque romImage (img bank off : Nat) : Byte

/-- `DOCK_IMAGE[bank][off]` of the images `img` (R50, R390). Log entry 8. -/
opaque dockImage (img bank off : Nat) : Byte

/-- `io_wait_SCLD`, the OPEN function of port, timestamp and bank table (R258). Log entry 9. -/
opaque scldIoWait (img : Nat) (port : Addr) (ts : Stamp) (slots : List Slot) : Nat

/-- BANK in the home table of an invalid record where the bank's number does not fit its 8 bits (R12, R42). Log entry 30. -/
opaque homeBankUnheld (bank : Nat) : BitVec 8

/-- Which fault is raised where a bank's number does not fit the 8 bits of BANK (R12, R42), CONFIG excepted (R350). Log
entry 18. -/
opaque bankFault : Fin 6

/-- HPOS where L is 0, which only an instance with an invalid record has (R10, R25): R12 gives no remainder there. Log
entry 28. -/
opaque hposUndivided (tsc : Stamp) : BitVec 32

/-- VPOS where L is 0, as `hposUndivided`. Log entry 28. -/
opaque vposUndivided (tsc : Stamp) : BitVec 32

/-- Whether the frame's interrupt window is open where N is 0 (R171), as `hposUndivided`. Log entry 28. -/
opaque intUndivided (ts : Stamp) : Bool

end Config

end Sys2Proof
end

