-- ==== Sys2Proof/Machine/Setup.lean ====
section
/-! DEFINITION. Which configuration records are valid (R10), the records of R9, and what depends on the configuration
alone: the contended banks (R240), the home layouts (R242 to R245) and the pools of SCLD (R246, R247). -/

namespace Sys2Proof

/-- `EX_POOL_SIZE = ROM_BANKS - RESERVED_ROM_BANKS` (R10, R247). -/
def Cfg.exPoolSize (c : Cfg) : Nat := c.romBanks - c.reservedRomBanks

/-- The slots of a variant and their size, which R4 and R9 fix: four of 16K, on SCLD eight of 8K. Log entry 22. -/
def Cfg.slotsFixed (c : Cfg) : Bool :=
  match c.variant with
  | .base => decide (c.slotCount = 4) && decide (c.slotSize = 16384)
  | .paged => decide (c.slotCount = 4) && decide (c.slotSize = 16384)
  | .scld => decide (c.slotCount = 8) && decide (c.slotSize = 8192)

/-- INT_LENGTH's constraint in the OPEN table of 92_eei_decisions.md, without which R171's corner cases fail. It names the
SCLD parameter; R9 fixes values within it for BASE and PAGED. Log entry 23. -/
def Cfg.intLengthOk (c : Cfg) : Bool := decide (0 < c.intLength) && decide (c.intLength ≤ c.n)

/-- The part of R10 that differs by variant. -/
def Cfg.poolsValid (c : Cfg) : Bool :=
  match c.variant with
  | .base => decide (c.romBanks = 1) && (decide (c.ramBanks = 1) || decide (c.ramBanks = 3))
  | .paged => decide (c.romBanks = 2) && decide (c.ramBanks = 8)
  | .scld =>
    decide (1 ≤ c.exPoolSize) && decide (c.exPoolBase + c.exPoolSize ≤ c.romBanks) && decide (2 ≤ c.romBanks)
      && decide (c.ramBanks = 6) && decide (c.dockBanks = 8) && !c.dockWritable

/-- When a configuration record is valid (R10, with the constraints of log entries 22 and 23). -/
def Cfg.valid (c : Cfg) : Bool :=
  decide (0 < c.l) && decide (0 < c.n) && decide (c.n < 2 ^ 31) && decide (c.slotSize * c.slotCount = 65536)
    && c.slotsFixed && c.poolsValid && c.intLengthOk && decide (c.contPattern.length = 8)
    && decide (1 ≤ c.logCapacity) && decide (c.logCapacity ≤ 4096) && decide (1 ≤ c.devMax) && decide (c.devMax ≤ 255)

namespace Config

/-- The delay pattern of BASE and PAGED (R9). -/
def ulaPattern : List Nat := [6, 5, 4, 3, 2, 1, 0, 0]

/-- BASE with the values of R9; RAM_BANKS, LOG_CAPACITY and DEV_MAX are OPEN. -/
def base (ramBanks logCapacity devMax : Nat) : Cfg where
  variant := .base
  n := 69888
  l := 224
  visibleLines := 192
  slotCount := 4
  slotSize := 16384
  romBanks := 1
  reservedRomBanks := 0
  exPoolBase := 0
  ramBanks := ramBanks
  dockBanks := 0
  dockPresent := false
  dockWritable := false
  contStart := 14335
  contLines := 192
  contWindow := 128
  contPattern := ulaPattern
  intLength := 32
  logCapacity := logCapacity
  devMax := devMax
  scldPortReadback := false
  images := 0

/-- PAGED with the values of R9; LOG_CAPACITY and DEV_MAX are OPEN. -/
def paged (logCapacity devMax : Nat) : Cfg where
  variant := .paged
  n := 70908
  l := 228
  visibleLines := 192
  slotCount := 4
  slotSize := 16384
  romBanks := 2
  reservedRomBanks := 0
  exPoolBase := 0
  ramBanks := 8
  dockBanks := 0
  dockPresent := false
  dockWritable := false
  contStart := 14361
  contLines := 192
  contWindow := 128
  contPattern := ulaPattern
  intLength := 36
  logCapacity := logCapacity
  devMax := devMax
  scldPortReadback := false
  images := 0

/-- SCLD with the values R9 fixes for it; the arguments are its OPEN fields. `Cfg.valid` does not ask these values, as R10
does not: R351 says what happens where SCLD_PORT_READBACK is false, and no rule reads VISIBLE_LINES (R173). -/
def scld (n l romBanks reservedRomBanks exPoolBase : Nat) (dockPresent : Bool) (contStart contLines contWindow : Nat)
    (contPattern : List Nat) (intLength logCapacity devMax images : Nat) : Cfg where
  variant := .scld
  n := n
  l := l
  visibleLines := 192
  slotCount := 8
  slotSize := 8192
  romBanks := romBanks
  reservedRomBanks := reservedRomBanks
  exPoolBase := exPoolBase
  ramBanks := 6
  dockBanks := 8
  dockPresent := dockPresent
  dockWritable := false
  contStart := contStart
  contLines := contLines
  contWindow := contWindow
  contPattern := contPattern
  intLength := intLength
  logCapacity := logCapacity
  devMax := devMax
  scldPortReadback := true
  images := images

/-- The instance State.reset constructs. DESIGN CHOICE, unsafe (log entry 4): PAGED leaves the fewest OPEN parameters,
and the two it leaves take the largest values R10 allows. -/
def resetCfg : Cfg := paged 4096 255

end Config

namespace Machine

/-- The tag of a variant (R4, R132). -/
def variantTag : Variant → BitVec 8
  | .base => 0
  | .paged => 1
  | .scld => 2

/-- The variant of a tag; 3 to 255 are no variants (R132). -/
def variantOfTag (t : BitVec 8) : Option Variant :=
  match t.toNat with
  | 0 => some .base
  | 1 => some .paged
  | 2 => some .scld
  | _ => none

/-- The contended predicate (R240): only RAM, bank 0 on BASE, odd banks on PAGED, banks 0 and 1 on SCLD. -/
def contended (v : Variant) (k : SlotKind) (bank : Nat) : Bool :=
  match k with
  | .rom => false
  | .dock => false
  | .unpopulated => false
  | .ram =>
    match v with
    | .base => decide (bank = 0)
    | .paged => decide (bank % 2 = 1)
    | .scld => decide (bank = 0) || decide (bank = 1)

/-- What `remap` is asked to put into a slot (R241). -/
structure Target where
  kind : SlotKind
  src  : SlotSrc
  bank : Nat
  deriving DecidableEq, Repr

/-- The banks of the pool a KIND names (R241); UNPOPULATED takes bank 0 only. -/
def poolSize (c : Cfg) : SlotKind → Nat
  | .rom => c.romBanks
  | .ram => c.ramBanks
  | .dock => c.dockBanks
  | .unpopulated => 1

/-- Whether `remap` accepts the bank (R241). -/
def targetOk (c : Cfg) (t : Target) : Bool := decide (t.bank < poolSize c t.kind)

/-- Whether the 8 bits of BANK hold the bank's number (R12, R42); only `ex(i)` can name a bank they do not. Log entry 18. -/
def targetFits (t : Target) : Bool := decide (t.bank < 256)

/-- The entry `remap` writes; CONT is always the contended predicate (R44, R241). A bank its 8 bits do not hold is
never stored (R12); only the home table of an invalid record, whose instance is FAULTED, asks for one, and BANK is a free
value there. Log entry 30. -/
def targetSlot (c : Cfg) (t : Target) : Slot where
  kind := t.kind
  src := t.src
  bank := if targetFits t then BitVec.ofNat 8 t.bank else Config.homeBankUnheld t.bank
  cont := contended c.variant t.kind t.bank

/-- BASE home layout (R242). Slots beyond 3, which only an invalid record has, go on in its way: DESIGN CHOICE, unsafe,
log entry 30. -/
def homeBase (c : Cfg) (i : Nat) : Target :=
  if i = 0 then ⟨.rom, .home, 0⟩
  else if i - 1 < c.ramBanks then ⟨.ram, .home, i - 1⟩
  else ⟨.unpopulated, .home, 0⟩

/-- PAGED home layout (R243), from the latch. PAGED has no slot beyond 3 (R4); one of an invalid record is UNPOPULATED:
DESIGN CHOICE, unsafe, log entry 30. -/
def homePaged (paging : BitVec 6) (i : Nat) : Target :=
  match i with
  | 0 => ⟨.rom, .home, (paging.extractLsb' 4 1).toNat⟩
  | 1 => ⟨.ram, .home, 5⟩
  | 2 => ⟨.ram, .home, 2⟩
  | 3 => ⟨.ram, .home, (paging.extractLsb' 0 3).toNat⟩
  | _ => ⟨.unpopulated, .home, 0⟩

/-- SCLD home layout (R244). Slots beyond 7, which only an invalid record has, go on in its way: DESIGN CHOICE, unsafe,
log entry 30. -/
def homeScld (i : Nat) : Target :=
  if i < 2 then ⟨.rom, .home, i⟩ else ⟨.ram, .home, i - 2⟩

/-- `home(i)` (R245). -/
def homeTarget (c : Cfg) (paging : BitVec 6) (i : Nat) : Target :=
  match c.variant with
  | .base => homeBase c i
  | .paged => homePaged paging i
  | .scld => homeScld i

/-- `dock(i)` (R246). -/
def dockTarget (i : Nat) : Target := ⟨.dock, .dock, i⟩

/-- `ex(i)` (R247). -/
def exTarget (c : Cfg) (i : Nat) : Target := ⟨.rom, .ex, c.exPoolBase + i % c.exPoolSize⟩

/-- The whole home bank table (R51, R245). RDREG SLOT reads it in FAULTED even where the record is invalid (log entry 30). -/
def homeTable (c : Cfg) (paging : BitVec 6) : List Slot :=
  (List.range c.slotCount).map fun i => targetSlot c (homeTarget c paging i)

end Machine

end Sys2Proof
end

