-- ==== Sys2Proof/Machine/State.lean ====
section
/-! DEFINITION. The state of one instance (R20 to R51), what the outside agents will say next (R8), where inside a command
the block stands (R17), and the reasons a model step can stop. Plain data throughout. -/

namespace Sys2Proof.Machine

/-- CTRL.STATE (R26). -/
inductive CtrlState where
  | running
  | atFrameBoundary
  | resetting
  | servicingNmi
  | singleStepping
  | faulted
  deriving DecidableEq, Repr

/-- RESULT codes (R125, R415). -/
inductive Result where
  | ok
  | brk
  | notFound
  | illegal
  | restoreMismatch
  | faulted
  deriving DecidableEq, Repr

/-- FAULT bits (R124, R411). -/
inductive FaultBit where
  | config
  | tsOrder
  | logOverflow
  | cpuFault
  | tscOverflow
  | reentrant
  | zeroStep
  deriving DecidableEq, Repr

/-- Sub-log ids (R45, R133). -/
inductive LogId where
  | border
  | mode
  | shadow
  | source
  deriving DecidableEq, Repr

/-- One entry of a sub-log (R46). -/
structure LogEntry where
  ts   : Stamp
  data : BitVec 16
  deriving DecidableEq, Repr

/-- INIT[s], LAST[s] and LOG[s] of one sub-log, entries oldest first (R46 to R48). -/
structure SubLog where
  init    : BitVec 16
  last    : BitVec 16
  entries : List LogEntry
  deriving DecidableEq, Repr

/-- The four sub-logs (R45). -/
structure Logs where
  border : SubLog
  mode   : SubLog
  shadow : SubLog
  source : SubLog
  deriving DecidableEq, Repr

/-- Direction of a port access (R331). -/
inductive Dir where
  | read
  | write
  deriving DecidableEq, Repr

/-- A closed interval of port addresses. -/
structure PortRange where
  lo : Addr
  hi : Addr
  deriving DecidableEq, Repr

/-- A device agent (R331): a name, and its `decode`, fixed at attach, as the ports it claims in each direction. Any set
of ports is a list of intervals. The device's own state is its own (R332). Log entry 15. -/
structure Agent where
  id     : Nat
  reads  : List PortRange
  writes : List PortRange
  deriving DecidableEq, Repr

/-- A record of the device registry (R49). -/
structure Device where
  tag   : BitVec 16
  depth : BitVec 8
  agent : Agent
  deriving DecidableEq, Repr

/-- What travels beside a format-H word (R111). -/
inductive Payload where
  | none
  | agent (a : Agent)
  | blob (bytes : List Byte)
  | cfg (c : Cfg)
  deriving DecidableEq, Repr

/-- One command the host issues: the word and its payload (R111). -/
structure HostInput where
  word    : HostWord
  payload : Payload
  deriving DecidableEq, Repr

/-- What the CPU capability returns from a call (R119, R378, R380). A call reads the fields its rule names: CYCLES and
OUTCOME from a step, ACCEPTED too from an NMI entry, `accepted` from the check, `blob` from the save. Log entry 25. -/
structure CpuReply where
  cycles   : BitVec 32
  outcome  : BitVec 2
  accepted : Bool
  blob     : List Byte
  deriving DecidableEq, Repr

/-- What the CPU capability does next while it is called: a bus word (R193), a host command from the callback (R28,
R354), or its return. -/
inductive CpuEvent where
  | bus (w : BusWord)
  | command (w : HostWord)
  | ret (r : CpuReply)
  deriving DecidableEq, Repr

/-- What a called device does next: a host command from the callback (R354), or its return with the byte `read` gives
and the truth value `on_nmi` gives (R331). -/
inductive DevEvent where
  | command (w : HostWord)
  | ret (data : Byte) (claim : Bool)
  deriving DecidableEq, Repr

/-- What remains of a host command once `ensure()` is done (R196 to R202, R252 to R254, R372). -/
inductive Cmd where
  | ensureFrame
  | runFrame
  | step (dbg : Bool)
  | reset (hard : Bool)
  | nmi
  | mapPaged (pool : Bool) (mask : BitVec 8)
  | mapRomBank (slot bank : BitVec 8)
  | mapRamBank (slot bank : BitVec 8)
  | wrreg (reg value : BitVec 8)
  deriving DecidableEq, Repr

/-- The calls of the CPU capability the block can be waiting in. -/
inductive CpuCall where
  /-- `CPU.step` from STEP (`single`) or from RUN_FRAME (R192). -/
  | step (single : Bool)
  /-- `CPU.nmi`, with the OR of the devices' replies (R202). -/
  | nmi (claimed : Bool)
  /-- `CPU.reset(HARD)` (R200). -/
  | reset (hard : Bool)
  /-- `CPU.save()` (R378). -/
  | save
  /-- `CPU.check(blob)` (R380). -/
  | check
  /-- `CPU.restore(blob)` (R381). -/
  | restore
  deriving DecidableEq, Repr

/-- The notifications every device gets in turn (R337). -/
inductive Notice where
  /-- `on_frame_boundary`, and the command that goes on afterwards (R339). -/
  | boundary (c : Cmd)
  /-- `on_reset` (R338). -/
  | reset
  /-- `on_nmi`, with the OR so far (R340). -/
  | nmi (claimed : Bool)
  deriving DecidableEq, Repr

/-- Which outside call is outstanding (R17): none, a call of the CPU, a device's `read` or `write` inside a bus cycle of a
CPU call, or a notification of device `k`. -/
inductive Pend where
  | idle
  | cpu (c : CpuCall)
  | io (c : CpuCall) (dir : Dir) (wait : BitVec 32)
  | notify (k : Nat) (n : Notice)
  deriving DecidableEq, Repr

/-- The operation a device is called with (R331). -/
inductive DevOp where
  | read (port : Addr) (ts : Stamp)
  | write (port : Addr) (v : Byte) (ts : Stamp)
  | onReset (ts : Stamp)
  | onNmi (ts : Stamp)
  | onFrameBoundary (ts : Stamp)
  deriving DecidableEq, Repr

/-- What the block asked of an outside collaborator; log entry 16. -/
inductive AgentCall where
  | cpuStep (tsc : Stamp) (dbg : Bool)
  | cpuReset (hard : Bool)
  | cpuNmi (tsc : Stamp)
  | cpuSave
  | cpuCheck (blob : List Byte)
  | cpuRestore (blob : List Byte)
  /-- device `k` of the chain, whose agent is `id`. -/
  | dev (k id : Nat) (op : DevOp)
  /-- `log_restart` clears the rendering cache (R298). -/
  | clearRenderingCache
  deriving DecidableEq, Repr

/-- The reply to a bus word (R118). -/
structure BusReply where
  wait  : BitVec 32
  level : Bool
  data  : Byte
  deriving DecidableEq, Repr

/-- The state of one instance. -/
@[ext]
structure State where
  /-- CFG (R9), replaced by SWAP_VARIANT (R383). -/
  cfg         : Cfg
  /-- TSC (R23). -/
  tsc         : Stamp
  /-- FRAMES (R24). -/
  frames      : BitVec 64
  /-- CTRL.STATE (R26). -/
  ctrl        : CtrlState
  /-- CTRL.BUSY (R28). -/
  busy        : Bool
  /-- STEP_START (R29). -/
  stepStart   : Stamp
  /-- LAST_BUS_TS (R29). -/
  lastBusTs   : Stamp
  /-- whether a format-B word was issued in the current CPU call (R202). -/
  busUsed     : Bool
  /-- the sum of the waits given in the current CPU call (R118, R459); log entry 32. -/
  waitsGiven  : Nat
  /-- STATUS.NMI_CLAIMED (R30). -/
  nmiClaimed  : Bool
  /-- STATUS.NMI_ACCEPTED (R30). -/
  nmiAccepted : Bool
  /-- STATUS.REFUSED (R30). -/
  refused     : Bool
  /-- RESULT (R31). -/
  result      : Result
  /-- FAULT (R32). -/
  fault       : BitVec 8
  /-- BORDER (R33). -/
  border      : BitVec 3
  /-- EARMIC (R34). -/
  earmic      : BitVec 2
  /-- PAGING (R35). -/
  paging      : BitVec 6
  /-- MODE (R36). -/
  mode        : BitVec 8
  /-- HSR (R37). -/
  hsr         : BitVec 8
  /-- SLOT (R42). -/
  slots       : List Slot
  /-- LOG, INIT and LAST (R46 to R48). -/
  logs        : Logs
  /-- LAST_LOG_TS (R48). -/
  lastLogTs   : Stamp
  /-- DEV in pre-order (R49, R336). -/
  dev         : List Device
  /-- the RAM bytes written so far, at bank * SLOT_SIZE + offset (R50); log entry 5. -/
  ram         : List Host.Cell
  /-- the draw that filled the RAM (R51, R384); log entry 5. -/
  ramGen      : Nat
  /-- the next draw; log entry 6. -/
  draws       : Nat
  /-- VALUE of the last reply (R111). -/
  value       : BitVec 64
  /-- the blob of the last SAVE reply (R111). -/
  blob        : List Byte
  /-- the reply to the last bus word (R118). -/
  busReply    : BusReply
  /-- the outside calls made, newest first; log entry 16. -/
  calls       : List AgentCall
  /-- the payload beside the current command (R111). -/
  payload     : Payload
  /-- the outstanding outside call (R17). -/
  pend        : Pend
  /-- the commands the host has still to issue; log entry 1. -/
  hostIn      : List HostInput
  /-- what the CPU capability does next when called; log entry 1. -/
  cpuIn       : List CpuEvent
  /-- what the devices do next when called; log entry 1. -/
  devIn       : List DevEvent
  deriving DecidableEq, Repr

/-- Why a model step stops the machine. The block's own faults (R411) are no such stop: they are next states. -/
inductive Fault where
  /-- A bus word's meaning raises it when no CPU call is waiting for one: R110 gives the word no meaning there, and
  `step` never runs one there. Safe: the model stops where the spec has no move. Log entry 10. -/
  | busWordOutsideCall
  deriving DecidableEq, Repr

/-- Why a word has no meaning. -/
inductive Refusal where
  /-- Raised only by an arm of exec whose instruction has no meaning yet; no arm is left so. Safe. -/
  | notModelled (mnemonic : String)
  deriving DecidableEq, Repr

/-- The reply that answers nothing, also a faulted cycle's (R412). -/
def BusReply.zero : BusReply := ⟨0, false, 0⟩

/-- A sub-log with nothing in it, at value `v` (R298). -/
def SubLog.fresh (v : BitVec 16) : SubLog := ⟨v, v, []⟩

/-- Power-on of an instance built with `c` (R51, R451). An invalid record gives the same state with FAULT.CONFIG set and
FAULTED (R10). Every effective value is 0 there (R291), so INIT and LAST are 0. -/
def State.powerOn (c : Cfg) : State where
  cfg := c
  tsc := 0
  frames := 0
  ctrl := if c.valid then .running else .faulted
  busy := false
  stepStart := 0
  lastBusTs := 0
  busUsed := false
  waitsGiven := 0
  nmiClaimed := false
  nmiAccepted := false
  refused := false
  result := .ok
  fault := if c.valid then 0 else 1
  border := 0
  earmic := 0
  paging := 0
  mode := 0
  hsr := 0
  slots := homeTable c 0
  logs := ⟨SubLog.fresh 0, SubLog.fresh 0, SubLog.fresh 0, SubLog.fresh 0⟩
  lastLogTs := 0
  dev := []
  ram := []
  ramGen := 0
  draws := 1
  value := 0
  blob := []
  busReply := BusReply.zero
  calls := []
  payload := .none
  pend := .idle
  hostIn := []
  cpuIn := []
  devIn := []

/-- The machine right after reset: power-on (R51) of the instance log entry 4 names, with nothing said by any agent. -/
def State.reset : State := State.powerOn Config.resetCfg

end Sys2Proof.Machine
end

