-- ==== Sys2Proof/Machine/Ops.lean ====
section
/-! DEFINITION. The named operations the meanings share: the RAM store, free values, outside calls, raising a fault (R412),
ending a command, and accepting one (R191). -/

namespace Sys2Proof.Machine

/-- The written byte at `a`, or none. -/
def ramGet : List Host.Cell → Nat → Option Byte
  | [], _ => none
  | (k, v) :: m, a => if k = a then some v else ramGet m a

/-- Write one byte, keeping the addresses strictly rising. -/
def ramSet : List Host.Cell → Nat → Byte → List Host.Cell
  | [], a, v => [(a, v)]
  | (k, w) :: m, a, v =>
    if a < k then (a, v) :: (k, w) :: m
    else if a = k then (a, v) :: m
    else (k, w) :: ramSet m a v

/-- The canonical form of the RAM store: addresses strictly rising. An unlisted address reads as "not written", which no
listed byte equals (log entry 5). -/
def ramWf : List Host.Cell → Bool
  | [] => true
  | [_] => true
  | (a, _) :: (b, w) :: m => decide (a < b) && ramWf ((b, w) :: m)

/-- The store that holds `f a` at each address below `n` where `f` gives a byte. -/
def ramOfFn (n : Nat) (f : Nat → Option Byte) : List Host.Cell :=
  (List.range n).filterMap fun a => (f a).map fun v => (a, v)

/-- The linear address of a byte of a RAM bank (R50, the order of R136). -/
def ramAddr (c : Cfg) (bank off : Nat) : Nat := bank * c.slotSize + off

/-- The byte at a linear RAM address: the one written last, or the power-on draw (R85). -/
def ramByte (s : State) (a : Nat) : Byte := (ramGet s.ram a).getD (Config.ramInit s.ramGen a)

/-- Store one byte at a linear RAM address. -/
def ramStore (a : Nat) (v : Byte) (s : State) : State := { s with ram := ramSet s.ram a v }

/-- `draw(FLOATING)` (R355). -/
def drawFloating (s : State) : Byte × State := (Config.floating s.draws, { s with draws := s.draws + 1 })

/-- `draw(ULA_INPUT)` (R347). -/
def drawUlaInput (s : State) : Byte × State := (Config.ulaInput s.draws, { s with draws := s.draws + 1 })

/-- Record an outside call (R14 `call X.op(args)`). -/
def recordCall (a : AgentCall) (s : State) : State := { s with calls := a :: s.calls }

/-- The mask of a FAULT bit (R124). -/
def faultMask : FaultBit → BitVec 8
  | .config => 0x01
  | .tsOrder => 0x02
  | .logOverflow => 0x04
  | .cpuFault => 0x08
  | .tscOverflow => 0x10
  | .reentrant => 0x20
  | .zeroStep => 0x40

/-- The fault of a bank's number that BANK's 8 bits do not hold (R12, R42): free, but not CONFIG (R350). Log entry 18. -/
def bankFaultBit : FaultBit :=
  match Config.bankFault.val with
  | 0 => .tsOrder
  | 1 => .logOverflow
  | 2 => .cpuFault
  | 3 => .tscOverflow
  | 4 => .reentrant
  | _ => .zeroStep

/-- `raise Fault(b)` (R412), the one way a fault is taken. In FAULTED it does nothing: the first fault of a command sets
its only bit (R420). The command's stop and BUSY follow in `endCmd` or when the outside call returns. Log entry 12. -/
def raise (b : FaultBit) (s : State) : State :=
  if s.ctrl = .faulted then s
  else { s with fault := s.fault ||| faultMask b, ctrl := .faulted, result := .faulted, value := 0 }

/-- Go on with `f` unless a fault was raised (R412: nothing more of the command is performed). -/
def unlessFaulted (f : State → State) (s : State) : State := if s.ctrl = .faulted then s else f s

/-- The idle rule (R27). -/
def idleCtrl (s : State) : CtrlState := if s.cfg.n ≤ s.tsc.toNat then .atFrameBoundary else .running

/-- Control returns to the host after a fault (R412). -/
def stopCmd (s : State) : State := { s with busy := false, pend := .idle }

/-- `result(r)` with VALUE `v`: the end of a command (R191, R207). -/
def finish (r : Result) (v : BitVec 64) (s : State) : State :=
  { s with result := r, value := v, busy := false, pend := .idle,
           ctrl := if s.ctrl = .faulted then .faulted else idleCtrl s }

/-- The end of a command, faulted or not. -/
def endCmd (r : Result) (v : BitVec 64) (s : State) : State := if s.ctrl = .faulted then stopCmd s else finish r v s

/-- The reply ILLEGAL: its only effects are RESULT and the sticky REFUSED (R113, R416). -/
def refuseCmd (s : State) : State := { s with refused := true, result := .illegal, value := 0 }

/-- The reply of a command issued in FAULTED (R191, R413). -/
def refuseFaulted (s : State) : State := { s with result := .faulted, value := 0 }

/-- `accept(w)` for every command but RDREG (R191), with the legality of the word in this state and the command's rule. -/
def accept (legal : Bool) (perform : State → State) (s : State) : State :=
  if s.busy then raise .reentrant s
  else if s.ctrl = .faulted then refuseFaulted s
  else if legal then perform { s with busy := true }
  else refuseCmd s

/-- `accept(w)` for RDREG, which FAULTED does not refuse (R191, R371). -/
def acceptRead (legal : Bool) (perform : State → State) (s : State) : State :=
  if s.busy then raise .reentrant s
  else if legal then perform s
  else refuseCmd s

/-- `accept(w)` for a word that spells no command (R113, R191). -/
def acceptIllegal (s : State) : State := accept false id s

/-- Reply to a bus word (R118); the wait it gives is one the CPU has to report (R459). -/
def busAnswer (wait : BitVec 32) (level : Bool) (data : Byte) (s : State) : State :=
  { s with busReply := ⟨wait, level, data⟩, waitsGiven := s.waitsGiven + wait.toNat }

/-- A fault inside a bus cycle: the cycle answers zeros (R412). -/
def busFault (b : FaultBit) (s : State) : State := raise b { s with busReply := BusReply.zero }

/-- The 64-bit form of the bus reply (R118). -/
def busReplyWord (r : BusReply) : BitVec 64 :=
  r.wait ++ (0 : BitVec 23) ++ BitVec.ofBool r.level ++ r.data

end Sys2Proof.Machine
end

