-- ==== Sys2Proof/Machine/Flags.lean ====
section
/-! DEFINITION. The combinational values (R25, R38 to R41, R171) and the status words (R122 to R125). -/

namespace Sys2Proof.Machine

/-- FRAME_OVER (R25, R161). -/
def frameOver (s : State) : Bool := decide (s.cfg.n ≤ s.tsc.toNat)

/-- HPOS (R170); with L = 0, in FAULTED only, a free value (log entry 28). -/
def hpos (s : State) : Nat := if s.cfg.l = 0 then (Config.hposUndivided s.tsc).toNat else s.tsc.toNat % s.cfg.l

/-- VPOS (R170); with L = 0, in FAULTED only, a free value (log entry 28). -/
def vpos (s : State) : Nat := if s.cfg.l = 0 then (Config.vposUndivided s.tsc).toNat else s.tsc.toNat / s.cfg.l

/-- MODE.INT_DISABLE (R36, R130). -/
def intDisable (s : State) : Bool := s.mode.getLsbD 6

/-- MODE.POOL_SEL (R36, R130). -/
def poolSel (s : State) : Bool := s.mode.getLsbD 7

/-- Whether `ts` is in the first INT_LENGTH cycles of a frame (R171); with N = 0, in FAULTED only, a free value (log entry
28). -/
def intWindow (c : Cfg) (ts : Stamp) : Bool :=
  if c.n = 0 then Config.intUndivided ts else decide (ts.toNat % c.n < c.intLength)

/-- INT_ACTIVE(ts) (R171). -/
def intActive (s : State) (ts : Stamp) : Bool :=
  intWindow s.cfg ts && !(decide (s.cfg.variant = .scld) && intDisable s)

/-- PAGING.BANK3 (R35, R129). -/
def bank3 (p : BitVec 6) : BitVec 3 := p.extractLsb' 0 3

/-- PAGING.SHADOW (R35, R129). -/
def shadowBit (p : BitVec 6) : Bool := p.getLsbD 3

/-- PAGING.ROMSEL (R35, R129). -/
def romSel (p : BitVec 6) : Bool := p.getLsbD 4

/-- PAGING.LOCK (R35, R129). -/
def lockBit (p : BitVec 6) : Bool := p.getLsbD 5

/-- SHADOW_EFF (R38). -/
def shadowEff (s : State) : Bool :=
  match s.cfg.variant with
  | .base => false
  | .paged => shadowBit s.paging
  | .scld => s.mode.extractLsb' 0 3 == 1

/-- HIRES (R41). -/
def hires (s : State) : Bool :=
  match s.cfg.variant with
  | .base => false
  | .paged => false
  | .scld => s.mode.getLsbD 2

/-- A byte with bit `i` set where `f i`. -/
def byteOfBits (f : Nat → Bool) : BitVec 8 :=
  (List.range 8).foldl (fun acc i => if f i then acc ||| BitVec.twoPow 8 i else acc) 0

/-- The entry of slot `i`; a slot the table lacks is unpopulated. -/
def slotEntry (slots : List Slot) (i : Nat) : Slot := slots.getD i ⟨.unpopulated, .home, 0, false⟩

/-- CONT_SEL (R39). Its eight bits have no place for slots beyond 7, which only an invalid record has: DESIGN CHOICE, unsafe,
log entry 30. -/
def contSel (s : State) : BitVec 8 :=
  byteOfBits fun i => decide (i < s.cfg.slotCount) && (slotEntry s.slots i).cont

/-- P3SCREEN (R40, R255). -/
def p3screen (s : State) : BitVec 2 :=
  match s.cfg.variant with
  | .base => 0
  | .scld => 0
  | .paged =>
    let e := slotEntry s.slots 3
    if e.kind = .ram ∧ e.bank = 5 then 2
    else if e.kind = .ram ∧ e.bank = 7 then 3
    else 0

/-- CTRL.STATE's number (R26). -/
def ctrlCode : CtrlState → BitVec 3
  | .running => 0
  | .atFrameBoundary => 1
  | .resetting => 2
  | .servicingNmi => 3
  | .singleStepping => 4
  | .faulted => 7

/-- CTRL (R122). -/
def ctrlWord (s : State) : BitVec 8 := (0 : BitVec 4) ++ BitVec.ofBool s.busy ++ ctrlCode s.ctrl

/-- STATUS (R30, R123). -/
def statusWord (s : State) : BitVec 8 :=
  (0 : BitVec 3) ++ BitVec.ofBool s.refused ++ BitVec.ofBool s.nmiAccepted ++ BitVec.ofBool s.nmiClaimed
    ++ BitVec.ofBool (intActive s s.tsc) ++ BitVec.ofBool (frameOver s)

/-- RESULT's number (R125). -/
def resultCode : Result → BitVec 8
  | .ok => 0
  | .brk => 1
  | .notFound => 2
  | .illegal => 3
  | .restoreMismatch => 4
  | .faulted => 5

end Sys2Proof.Machine
end

