-- ==== Sys2Proof/Machine/EventLog.lean ====
section
/-! DEFINITION. The frame-event log (R290 to R305). -/

namespace Sys2Proof.Machine

/-- The sub-log ids in id order (R133). -/
def logIds : List LogId := [.border, .mode, .shadow, .source]

/-- The id of a sub-log's number (R133). -/
def logIdOf : Nat → Option LogId
  | 0 => some .border
  | 1 => some .mode
  | 2 => some .shadow
  | 3 => some .source
  | _ => none

/-- A sub-log's number (R133). -/
def logIdCode : LogId → BitVec 4
  | .border => 0
  | .mode => 1
  | .shadow => 2
  | .source => 3

/-- Whether the variant has the sub-log (R45, R290). -/
def logActive : Variant → LogId → Bool
  | _, .border => true
  | .scld, .mode => true
  | .paged, .shadow => true
  | .scld, .source => true
  | .base, .mode => false
  | .base, .shadow => false
  | .base, .source => false
  | .paged, .mode => false
  | .paged, .source => false
  | .scld, .shadow => false

/-- The sub-log `id`. -/
def logOf (l : Logs) : LogId → SubLog
  | .border => l.border
  | .mode => l.mode
  | .shadow => l.shadow
  | .source => l.source

/-- The logs with sub-log `id` replaced. -/
def setLog (l : Logs) (id : LogId) (x : SubLog) : Logs :=
  match id with
  | .border => { l with border := x }
  | .mode => { l with mode := x }
  | .shadow => { l with shadow := x }
  | .source => { l with source := x }

/-- The mask of the slots whose SRC is `src` (R291). -/
def srcMask (src : SlotSrc) (s : State) : BitVec 8 :=
  byteOfBits fun i => decide (i < s.slots.length) && decide ((slotEntry s.slots i).src = src)

/-- `eff(s)` of a sub-log the variant has (R291). -/
def effValue (s : State) : LogId → BitVec 16
  | .border => s.border.setWidth 16
  | .mode => (s.mode.extractLsb' 0 6).setWidth 16
  | .shadow => if shadowBit s.paging then 1 else 0
  | .source => srcMask .dock s ++ srcMask .ex s

/-- `eff(s)`, 0 for a sub-log the variant lacks (R291). -/
def eff (s : State) (id : LogId) : BitVec 16 := if logActive s.cfg.variant id then effValue s id else 0

/-- `log_append(s, ts, v)` (R292). -/
def logAppend (id : LogId) (ts : Stamp) (v : BitVec 16) (s : State) : State :=
  if ts.toNat < s.lastLogTs.toNat then raise .tsOrder s
  else if (logOf s.logs id).entries.length = s.cfg.logCapacity then raise .logOverflow s
  else
    { s with
      logs := setLog s.logs id
        { logOf s.logs id with last := v, entries := (logOf s.logs id).entries ++ [⟨ts, v⟩] }
      lastLogTs := ts }

/-- One turn of `note`'s loop (R293): a sub-log the variant lacks is skipped, and BORDER in high resolution. -/
def noteOne (ts : Stamp) (id : LogId) (s : State) : State :=
  if logActive s.cfg.variant id && !(decide (id = .border) && hires s)
      && decide (eff s id ≠ (logOf s.logs id).last) then
    logAppend id ts (eff s id) s
  else s

/-- `note(ts)` (R293): the sub-logs in id order, a fault ending the loop. -/
def note (ts : Stamp) (s : State) : State :=
  unlessFaulted (noteOne ts .source) (unlessFaulted (noteOne ts .shadow)
    (unlessFaulted (noteOne ts .mode) (unlessFaulted (noteOne ts .border) s)))

/-- `log_restart()` (R298). -/
def logRestart (s : State) : State :=
  recordCall .clearRenderingCache
    { s with
      logs := ⟨SubLog.fresh (eff s .border), SubLog.fresh (eff s .mode), SubLog.fresh (eff s .shadow),
        SubLog.fresh (eff s .source)⟩
      lastLogTs := 0 }

end Sys2Proof.Machine
end

