-- ==== Sys2Proof/Machine/Banking.lean ====
section
/-! DEFINITION. The bank selector and the contention calculator (R71, R78, R79, R240 to R260). -/

namespace Sys2Proof.Machine

/-- `slot = addr div SLOT_SIZE` (R71). -/
def slotIndex (c : Cfg) (a : Addr) : Nat := a.toNat / c.slotSize

/-- `off = addr mod SLOT_SIZE` (R71). -/
def slotOffset (c : Cfg) (a : Addr) : Nat := a.toNat % c.slotSize

/-- `remap` (R241). A bank of the pool that BANK does not hold is a fault and not stored (R12; log entry 18). -/
def remap (i : Nat) (t : Target) (s : State) : State :=
  if i < s.cfg.slotCount ∧ targetOk s.cfg t then
    if targetFits t then { s with slots := s.slots.set i (targetSlot s.cfg t) } else raise bankFaultBit s
  else raise .config s

/-- What `change_mem_paged` puts into slot `i` when asked for `want`: none when SRC is that already (R248). FIXED is no
request, and leaves the slot. -/
def pagedTarget (s : State) (want : SlotSrc) (i : Nat) : Option Target :=
  if want = (slotEntry s.slots i).src then none
  else
    match want with
    | .home => some (homeTarget s.cfg s.paging i)
    | .ex => some (exTarget s.cfg i)
    | .dock => some (dockTarget i)
    | .fixed => none

/-- Whether every target `change_mem_paged` would store passes a check (R248). -/
def pagedPlan (ok : Target → Bool) (want : Nat → SlotSrc) (s : State) : Bool :=
  (List.range s.cfg.slotCount).all fun i => (pagedTarget s (want i) i).all ok

/-- The entry of slot `i` after `change_mem_paged` (R248). -/
def pagedEntry (want : Nat → SlotSrc) (s : State) (i : Nat) : Slot :=
  match pagedTarget s (want i) i with
  | none => slotEntry s.slots i
  | some t => targetSlot s.cfg t

/-- `change_mem_paged(new)` (R248): every slot is validated before any is written, against the pools and against the 8 bits
of BANK (R12; log entry 18). -/
def changeMemPaged (want : Nat → SlotSrc) (s : State) : State :=
  if pagedPlan (targetOk s.cfg) want s then
    if pagedPlan targetFits want s then { s with slots := (List.range s.cfg.slotCount).map (pagedEntry want s) }
    else raise bankFaultBit s
  else raise .config s

/-- `scld_mapping()` (R250). -/
def scldMapping (s : State) (i : Nat) : SlotSrc :=
  if s.hsr.getLsbD i then (if poolSel s then .ex else .dock) else .home

/-- `apply_scld()` (R250). -/
def applyScld (s : State) : State := changeMemPaged (scldMapping s) s

/-- The two `remap`s of a latch write, from the new latch (R251). -/
def remapLatch (s : State) : State :=
  unlessFaulted (remap 3 ⟨.ram, .home, (bank3 s.paging).toNat⟩) (remap 0 ⟨.rom, .home, (romSel s.paging).toNat⟩ s)

/-- `write_paging(v, forced)` (R251). -/
def writePaging (v : Byte) (forced : Bool) (s : State) : State :=
  if lockBit s.paging && !forced then s else remapLatch { s with paging := v.extractLsb' 0 6 }

/-- A write of MODE (R349, R375): `apply_scld` maps every slot whose SRC is not the wanted one (R248, R250), also where
POOL_SEL did not change, which R349's last sentence leaves out. DESIGN CHOICE, unsafe, log entry 31. -/
def writeMode (v : Byte) (s : State) : State := applyScld { s with mode := v }

/-- A write of HSR (R350, R376). -/
def writeHsr (v : Byte) (s : State) : State := applyScld { s with hsr := v }

/-- What MAP_PAGED does to the registers and the table (R252). -/
def mapPagedWrite (pool : Bool) (mask : BitVec 8) (s : State) : State :=
  applyScld { s with hsr := mask, mode := BitVec.ofBool pool ++ s.mode.extractLsb' 0 7 }

/-- `MemRead(addr, 1)` (R78). -/
def memRead (a : Addr) (s : State) : Byte × State :=
  let e := slotEntry s.slots (slotIndex s.cfg a)
  let off := slotOffset s.cfg a
  match e.kind with
  | .rom => (Config.romImage s.cfg.images e.bank.toNat off, s)
  | .ram => (ramByte s (ramAddr s.cfg e.bank.toNat off), s)
  | .dock => if s.cfg.dockPresent then (Config.dockImage s.cfg.images e.bank.toNat off, s) else drawFloating s
  | .unpopulated => drawFloating s

/-- `MemWrite(addr, 1, v)` (R79). DOCK is never writable under a valid record (R10, 90_conflicts.md C10), so its write is
dropped like ROM's. -/
def memWrite (a : Addr) (v : Byte) (s : State) : State :=
  let e := slotEntry s.slots (slotIndex s.cfg a)
  match e.kind with
  | .ram => ramStore (ramAddr s.cfg e.bank.toNat (slotOffset s.cfg a)) v s
  | .rom => s
  | .dock => s
  | .unpopulated => s

/-- `DELAY(ts)` (R256). -/
def delay (c : Cfg) (ts : Nat) : Nat :=
  if ts < c.contStart then 0
  else
    let t := ts - c.contStart
    if c.contLines * c.l ≤ t then 0
    else
      let h := t % c.l
      if c.contWindow ≤ h then 0 else c.contPattern.getD (h % 8) 0

/-- A wait as the 32 bits of WAIT (R118); none where they do not hold it (R12). -/
def waitOf (n : Nat) : Option (BitVec 32) := if n < 2 ^ 32 then some (BitVec.ofNat 32 n) else none

/-- `mem_wait(addr, ts)` (R257); none is a wait that WAIT does not hold, log entry 19. -/
def memWait (a : Addr) (ts : Stamp) (s : State) : Option (BitVec 32) :=
  waitOf (if (slotEntry s.slots (slotIndex s.cfg a)).cont then delay s.cfg ts.toNat else 0)

/-- The time one contended step of an I/O pattern ends at: `t + DELAY(t) + k` (R258). -/
def delayed (c : Cfg) (k t : Nat) : Nat := t + delay c t + k

/-- Where the four I/O patterns of R258 end, from the contention of the port taken as an address and the ULA decode. -/
def ioEnd (c : Cfg) (hc ula : Bool) (ts : Nat) : Nat :=
  match hc, ula with
  | false, false => ts + 4
  | false, true => delayed c 3 (ts + 1)
  | true, true => delayed c 3 (delayed c 1 ts)
  | true, false => delayed c 1 (delayed c 1 (delayed c 1 (delayed c 1 ts)))

/-- `io_wait(port, ts)` (R258); none is a wait that WAIT does not hold, log entry 19. -/
def ioWait (port : Addr) (ts : Stamp) (s : State) : Option (BitVec 32) :=
  let ula := !port.getLsbD 0
  let hc := (slotEntry s.slots (slotIndex s.cfg port)).cont
  waitOf (match s.cfg.variant with
    | .scld => Config.scldIoWait s.cfg.images port ts s.slots
    | .base => ioEnd s.cfg hc ula ts.toNat - ts.toNat - 4
    | .paged => ioEnd s.cfg hc ula ts.toNat - ts.toNat - 4)

end Sys2Proof.Machine
end

