-- ==== Sys2Proof/Machine/Operands.lean ====
section
/-! DEFINITION. The operand forms of RDREG, WRREG and the snapshot: the register map (R120), the word encodings (R126 to
R130), the snapshot layout (R136), and the assembler's spelling of an operation (R137, R138). -/

namespace Sys2Proof.Machine

/-- The registers of R120. -/
inductive HostReg where
  | tsc | frames | frameCycles | lineCycles | hpos | vpos | variant | ctrl | status | result | fault
  | border | earmic | paging | mode | hsr | contSel | p3screen | shadowEff | hires
  | slot | slotCount | logCount | logEntry | logInit | devCount | devTag | devDepth
  deriving DecidableEq, Repr

/-- The register of a number; all other numbers are reserved (R114, R120). -/
def hostRegOf (n : BitVec 8) : Option HostReg :=
  match n.toNat with
  | 0x00 => some .tsc
  | 0x01 => some .frames
  | 0x02 => some .frameCycles
  | 0x03 => some .lineCycles
  | 0x04 => some .hpos
  | 0x05 => some .vpos
  | 0x06 => some .variant
  | 0x07 => some .ctrl
  | 0x08 => some .status
  | 0x09 => some .result
  | 0x0A => some .fault
  | 0x10 => some .border
  | 0x11 => some .earmic
  | 0x12 => some .paging
  | 0x13 => some .mode
  | 0x14 => some .hsr
  | 0x15 => some .contSel
  | 0x16 => some .p3screen
  | 0x17 => some .shadowEff
  | 0x18 => some .hires
  | 0x20 => some .slot
  | 0x21 => some .slotCount
  | 0x30 => some .logCount
  | 0x31 => some .logEntry
  | 0x32 => some .logInit
  | 0x40 => some .devCount
  | 0x41 => some .devTag
  | 0x42 => some .devDepth
  | _ => none

/-- KIND's number (R42, R126). -/
def kindCode : SlotKind → BitVec 3
  | .rom => 0
  | .ram => 1
  | .dock => 2
  | .unpopulated => 3

/-- SRC's number (R42, R126). -/
def srcCode : SlotSrc → BitVec 2
  | .home => 0
  | .ex => 1
  | .dock => 2
  | .fixed => 3

/-- The KIND of a number; 4 to 7 are reserved (R42). -/
def kindOf (k : BitVec 3) : Option SlotKind :=
  match k.toNat with
  | 0 => some .rom
  | 1 => some .ram
  | 2 => some .dock
  | 3 => some .unpopulated
  | _ => none

/-- The SRC of a number (R42). -/
def srcOf (k : BitVec 2) : SlotSrc :=
  match k.toNat with
  | 0 => .home
  | 1 => .ex
  | 2 => .dock
  | _ => .fixed

/-- The 16-bit form of a bank-table entry (R126). -/
def slotWord (e : Slot) : BitVec 16 :=
  BitVec.ofBool e.cont ++ srcCode e.src ++ kindCode e.kind ++ (0 : BitVec 2) ++ e.bank

/-- LOG_ENTRY's 64-bit form (R127). -/
def logEntryWord (id : LogId) (e : LogEntry) : BitVec 64 := e.ts ++ logIdCode id ++ (0 : BitVec 12) ++ e.data

/-- A number as VALUE. -/
def val64 (n : Nat) : BitVec 64 := BitVec.ofNat 64 n

/-- VALUE of the last reply as the bytes the host receives, byte 0 its bits 7:0 (R76, R121). -/
def valueBytes (s : State) : List Byte := leBytes 8 s.value.toNat

/-- The sub-log LOG_COUNT and LOG_INIT index with the whole ARG (R120). -/
def logIdArg (idx : BitVec 16) : Option LogId := logIdOf idx.toNat

/-- LOG_ENTRY's ARG: bits 15:12 the sub-log, bits 11:0 the index (R120). -/
def logEntryArg (s : State) (idx : BitVec 16) : Option (BitVec 64) :=
  match logIdOf (idx.extractLsb' 12 4).toNat with
  | none => none
  | some id => (logOf s.logs id).entries[(idx.extractLsb' 0 12).toNat]?.map (logEntryWord id)

/-- The width of a register (R120). -/
def regBits : HostReg → Nat
  | .tsc => 32
  | .frames => 64
  | .frameCycles => 32
  | .lineCycles => 32
  | .hpos => 32
  | .vpos => 32
  | .variant => 8
  | .ctrl => 8
  | .status => 8
  | .result => 8
  | .fault => 8
  | .border => 8
  | .earmic => 8
  | .paging => 8
  | .mode => 8
  | .hsr => 8
  | .contSel => 8
  | .p3screen => 8
  | .shadowEff => 8
  | .hires => 8
  | .slot => 16
  | .slotCount => 8
  | .logCount => 16
  | .logEntry => 64
  | .logInit => 16
  | .devCount => 8
  | .devTag => 16
  | .devDepth => 8

/-- The number a register holds (R371, by R120), or none where the variant lacks the register or the index is out of range.
It is read in the state before the command, so RESULT is the one before it and CTRL.BUSY reads 0 (R122). -/
def readReg (s : State) (idx : BitVec 16) : HostReg → Option Nat
  | .tsc => some s.tsc.toNat
  | .frames => some s.frames.toNat
  | .frameCycles => some s.cfg.n
  | .lineCycles => some s.cfg.l
  | .hpos => some (hpos s)
  | .vpos => some (vpos s)
  | .variant => some (variantTag s.cfg.variant).toNat
  | .ctrl => some (ctrlWord { s with busy := false }).toNat
  | .status => some (statusWord s).toNat
  | .result => some (resultCode s.result).toNat
  | .fault => some s.fault.toNat
  | .border => some s.border.toNat
  | .earmic => some s.earmic.toNat
  | .paging => if s.cfg.variant = .paged then some s.paging.toNat else none
  | .mode => if s.cfg.variant = .scld then some s.mode.toNat else none
  | .hsr => if s.cfg.variant = .scld then some s.hsr.toNat else none
  | .contSel => some (contSel s).toNat
  | .p3screen => some (p3screen s).toNat
  | .shadowEff => some (BitVec.ofBool (shadowEff s)).toNat
  | .hires => some (BitVec.ofBool (hires s)).toNat
  | .slot => if idx.toNat < s.cfg.slotCount then some (slotWord (slotEntry s.slots idx.toNat)).toNat else none
  | .slotCount => some s.cfg.slotCount
  | .logCount => (logIdArg idx).map fun id => (logOf s.logs id).entries.length
  | .logEntry => (logEntryArg s idx).map BitVec.toNat
  | .logInit => (logIdArg idx).map fun id => (logOf s.logs id).init.toNat
  | .devCount => some s.dev.length
  | .devTag => s.dev[idx.toNat]?.map fun d => d.tag.toNat
  | .devDepth => s.dev[idx.toNat]?.map fun d => d.depth.toNat

/-- RDREG by register number (R114, R371): the register's width and the number it holds. -/
def readRegNum (s : State) (reg : BitVec 8) (idx : BitVec 16) : Option (Nat × Nat) :=
  (hostRegOf reg).bind fun r => (readReg s idx r).map fun n => (regBits r, n)

/-- The registers WRREG writes (R120 "RW"). -/
inductive WritableReg where
  | border
  | paging
  | mode
  | hsr
  deriving DecidableEq, Repr

/-- The RW register of a number on a variant; every other number is ILLEGAL (R372, R377). -/
def writableRegOf (v : Variant) (reg : BitVec 8) : Option WritableReg :=
  match reg.toNat with
  | 0x10 => some .border
  | 0x12 => if v = .paged then some .paging else none
  | 0x13 => if v = .scld then some .mode else none
  | 0x14 => if v = .scld then some .hsr else none
  | _ => none

/-- The write rules of WRREG (R373 to R376). -/
def writeReg (r : WritableReg) (v : BitVec 8) (s : State) : State :=
  match r with
  | .border => { s with border := v.extractLsb' 0 3 }
  | .paging => writePaging v true s
  | .mode => writeMode v s
  | .hsr => writeHsr v s

/-- RAM_BYTES (R136). -/
def ramBytes (c : Cfg) : Nat := c.ramBanks * c.slotSize

/-- Where RAM_BYTES stands in the blob (R136). -/
def ramLenAt (c : Cfg) : Nat := 24 + 2 * c.slotCount

/-- Where the RAM contents stand in the blob (R136). -/
def ramAt (c : Cfg) : Nat := ramLenAt c + 4

/-- Where DOCK_BYTES stands in the blob (R136). -/
def dockLenAt (c : Cfg) : Nat := ramAt c + ramBytes c

/-- Where CPU_BYTES stands in the blob (R136). -/
def cpuLenAt (c : Cfg) : Nat := dockLenAt c + 4

/-- Where the CPU blob stands in the blob (R136). -/
def cpuAt (c : Cfg) : Nat := cpuLenAt c + 4

/-- The SAVE blob (R136), for a CPU blob whose length fits CPU_BYTES (`saveReturn`). Registers the variant lacks are stored
as 0. -/
def snapshot (s : State) (cpu : List Byte) : List Byte :=
  [1, variantTag s.cfg.variant, BitVec.ofNat 8 s.cfg.slotCount, 0]
    ++ leBytes 4 s.tsc.toNat ++ leBytes 8 s.frames.toNat
    ++ [s.border.setWidth 8, s.earmic.setWidth 8,
        if s.cfg.variant = .paged then s.paging.setWidth 8 else 0,
        if s.cfg.variant = .scld then s.mode else 0,
        if s.cfg.variant = .scld then s.hsr else 0, 0, 0, 0]
    ++ (List.range s.cfg.slotCount).flatMap (fun i => leBytes 2 (slotWord (slotEntry s.slots i)).toNat)
    ++ leBytes 4 (ramBytes s.cfg) ++ (List.range (ramBytes s.cfg)).map (ramByte s)
    ++ leBytes 4 0
    ++ leBytes 4 cpu.length ++ cpu

/-- The byte at an offset of a blob. -/
def blobByte (b : List Byte) (i : Nat) : Byte := b.getD i 0

/-- The little-endian number of `n` bytes at an offset of a blob. -/
def blobNat (b : List Byte) (i n : Nat) : Nat := leNat ((b.drop i).take n)

/-- The saved word of slot `i` (R136). -/
def blobSlotWord (b : List Byte) (i : Nat) : BitVec 16 := BitVec.ofNat 16 (blobNat b (24 + 2 * i) 2)

/-- The checks on one saved slot entry (R380). CONT is not checked. -/
def slotWordOk (c : Cfg) (w : BitVec 16) : Bool :=
  w.extractLsb' 8 2 == 0 &&
    match kindOf (w.extractLsb' 10 3) with
    | none => false
    | some k => decide ((w.extractLsb' 0 8).toNat < poolSize c k) && (!decide (k = .dock) || decide (c.variant = .scld))

/-- The entry a saved word stands for, CONT recomputed (R381). -/
def slotOfWord (c : Cfg) (w : BitVec 16) : Slot :=
  let k := (kindOf (w.extractLsb' 10 3)).getD .unpopulated
  let bank := w.extractLsb' 0 8
  { kind := k, src := srcOf (w.extractLsb' 13 2), bank := bank, cont := contended c.variant k bank.toNat }

/-- The checks of R380 the block makes by itself, before it asks the CPU. -/
def snapshotOk (c : Cfg) (b : List Byte) : Bool :=
  decide (24 + 2 * c.slotCount + 12 ≤ b.length) && blobByte b 0 == 1 && blobByte b 3 == 0
    && blobByte b 21 == 0 && blobByte b 22 == 0 && blobByte b 23 == 0
    && blobByte b 1 == variantTag c.variant && decide ((blobByte b 2).toNat = c.slotCount)
    && decide (blobNat b 4 4 < 2 * c.n) && decide ((blobByte b 16).toNat ≤ 7) && decide ((blobByte b 17).toNat ≤ 3)
    && decide ((blobByte b 18).toNat ≤ 0x3F) && (blobByte b 18 == 0 || decide (c.variant = .paged))
    && ((blobByte b 19 == 0 && blobByte b 20 == 0) || decide (c.variant = .scld))
    && ((List.range c.slotCount).all fun i => slotWordOk c (blobSlotWord b i))
    && decide (blobNat b (ramLenAt c) 4 = ramBytes c)
    && decide (blobNat b (dockLenAt c) 4 = 0)
    && decide (b.length = cpuAt c + blobNat b (cpuLenAt c) 4)

/-- The CPU blob inside a blob (R136). -/
def cpuBlob (c : Cfg) (b : List Byte) : List Byte := b.drop (cpuAt c)

/-- The RAM store that holds the given bytes from address 0 (R136, R381). -/
def ramOfBytes (bytes : List Byte) : List Host.Cell := bytes.zipIdx.map fun p => (p.2, p.1)

/-- The durable state of a blob written over the state (R381), without the log. -/
def loadSnapshot (b : List Byte) (s : State) : State :=
  { s with
    tsc := BitVec.ofNat 32 (blobNat b 4 4)
    frames := BitVec.ofNat 64 (blobNat b 8 8)
    border := (blobByte b 16).extractLsb' 0 3
    earmic := (blobByte b 17).extractLsb' 0 2
    paging := (blobByte b 18).extractLsb' 0 6
    mode := blobByte b 19
    hsr := blobByte b 20
    slots := (List.range s.cfg.slotCount).map fun i => slotOfWord s.cfg (blobSlotWord b i)
    ram := ramOfBytes ((b.drop (ramAt s.cfg)).take (ramBytes s.cfg))
    nmiClaimed := false
    nmiAccepted := false }

/-- The logical address the byte at new linear address `t` is copied from in `rechunk`: the last one the loop of R384
visits, through a new slot holding the bank, with old RAM mapped there. -/
def rechunkSource (old new : Cfg) (oldSlots newSlots : List Slot) (t : Nat) : Option Nat :=
  ((List.range new.slotCount).reverse.map fun i => i * new.slotSize + t % new.slotSize).find? fun a =>
    let e := slotEntry oldSlots (a / old.slotSize)
    let e' := slotEntry newSlots (a / new.slotSize)
    decide (e.kind = .ram) && decide (e'.kind = .ram) && decide (e'.bank.toNat = t / new.slotSize)

/-- The old linear RAM address behind a logical address. -/
def oldRamAddr (s : State) (a : Nat) : Nat :=
  ramAddr s.cfg (slotEntry s.slots (a / s.cfg.slotSize)).bank.toNat (a % s.cfg.slotSize)

/-- `rechunk` (R384): the new RAM, listing exactly the bytes copied; the rest is drawn. -/
def rechunk (s : State) (new : Cfg) : List Host.Cell :=
  ramOfFn (ramBytes new) fun t =>
    (rechunkSource s.cfg new s.slots (homeTable new 0) t).map fun a => ramByte s (oldRamAddr s a)

/-- A number in decimal. -/
def dec (n : Nat) : String := toString n

/-- A number in hexadecimal with the 0x of R12. -/
def hex (n : Nat) : String := "0x" ++ String.ofList (Nat.toDigits 16 n)

/-- The register names of R120. -/
def regName : HostReg → String
  | .tsc => "TSC"
  | .frames => "FRAMES"
  | .frameCycles => "FRAME_CYCLES"
  | .lineCycles => "LINE_CYCLES"
  | .hpos => "HPOS"
  | .vpos => "VPOS"
  | .variant => "VARIANT"
  | .ctrl => "CTRL"
  | .status => "STATUS"
  | .result => "RESULT"
  | .fault => "FAULT"
  | .border => "BORDER"
  | .earmic => "EARMIC"
  | .paging => "PAGING"
  | .mode => "MODE"
  | .hsr => "HSR"
  | .contSel => "CONT_SEL"
  | .p3screen => "P3SCREEN"
  | .shadowEff => "SHADOW_EFF"
  | .hires => "HIRES"
  | .slot => "SLOT"
  | .slotCount => "SLOT_COUNT"
  | .logCount => "LOG_COUNT"
  | .logEntry => "LOG_ENTRY"
  | .logInit => "LOG_INIT"
  | .devCount => "DEV_COUNT"
  | .devTag => "DEV_TAG"
  | .devDepth => "DEV_DEPTH"

/-- A register's name, or its number where R120 has none. -/
def regText (n : BitVec 8) : String := ((hostRegOf n).map regName).getD (hex n.toNat)

/-- The pool names of MAP_PAGED (R137). -/
def poolText (ex : Bool) : String := if ex then "ex" else "dock"

/-- The variant names of SWAP_VARIANT (R137). -/
def variantText (t : BitVec 8) : String :=
  match variantOfTag t with
  | some .base => "base"
  | some .paged => "paged"
  | some .scld => "scld"
  | none => hex t.toNat

/-- The time mark of a bus cycle (R138). -/
def atText (ts : Stamp) : String := " @" ++ dec ts.toNat

/-- An operation as the assembler writes it (R137, R138). -/
def asmText : Instr → String
  | .runFrame => "RUN_FRAME"
  | .ensureFrame => "ENSURE_FRAME"
  | .step dbg => if dbg then "STEP dbg" else "STEP"
  | .reset hard => if hard then "RESET hard" else "RESET soft"
  | .nmi => "NMI"
  | .mapPaged pool mask => "MAP_PAGED " ++ poolText pool ++ ", #" ++ hex mask.toNat
  | .mapRomBank slot bank => "MAP_ROM_BANK " ++ dec slot.toNat ++ ", " ++ dec bank.toNat
  | .mapRamBank slot bank => "MAP_RAM_BANK " ++ dec slot.toNat ++ ", " ++ dec bank.toNat
  | .rdreg reg idx => "RDREG " ++ regText reg ++ (if idx = 0 then "" else ", " ++ hex idx.toNat)
  | .wrreg reg value => "WRREG " ++ regText reg ++ ", " ++ hex value.toNat
  | .attach parent tag =>
    "ATTACH " ++ dec tag.toNat ++ (if parent = 0xFF then "" else ", " ++ dec parent.toNat)
  | .detach tag => "DETACH " ++ dec tag.toNat
  | .find tag => "FIND " ++ dec tag.toNat
  | .save => "SAVE"
  | .restore => "RESTORE"
  | .swapVariant variant => "SWAP_VARIANT " ++ variantText variant
  | .fetch addr ts => "FETCH " ++ hex addr.toNat ++ atText ts
  | .memRead addr ts => "MRD " ++ hex addr.toNat ++ atText ts
  | .memWrite data addr ts => "MWR " ++ hex addr.toNat ++ ", " ++ hex data.toNat ++ atText ts
  | .ioRead port ts => "IORD " ++ hex port.toNat ++ atText ts
  | .ioWrite data port ts => "IOWR " ++ hex port.toNat ++ ", " ++ hex data.toNat ++ atText ts
  | .contend addr ts => "CONT " ++ hex addr.toNat ++ atText ts
  | .intSample ts => "INTS" ++ atText ts
  | .intAck _ ts => "INTA" ++ atText ts

end Sys2Proof.Machine
end

