-- ==== Sys2Proof/Machine/Ports.lean ====
section
/-! DEFINITION. The chipset's own ports (R134, R345 to R351), the arbitration (R334, R335), and the return of a device from
`read` or `write`. -/

namespace Sys2Proof.Machine

/-- The port registers of the chipset (R134). -/
inductive ChipReg where
  | ula
  | paging
  | mode
  | hsr
  deriving DecidableEq, Repr

/-- The address part of a port register's decode (R134). -/
def portMatches (v : Variant) (p : Addr) : ChipReg → Bool
  | .ula => match v with
    | .base => !p.getLsbD 0
    | .paged => !p.getLsbD 0
    | .scld => p.extractLsb' 0 8 == 0xFE
  | .paging => decide (v = .paged) && !p.getLsbD 15 && !p.getLsbD 1
  | .mode => decide (v = .scld) && p.extractLsb' 0 8 == 0xFF
  | .hsr => decide (v = .scld) && p.extractLsb' 0 8 == 0xF4

/-- The register a read of the port finds, in the order ULA, MODE, HSR (R345); PAGING is not readable, MODE and HSR only
with SCLD_PORT_READBACK (R351). -/
def readableReg (c : Cfg) (p : Addr) : Option ChipReg :=
  if portMatches c.variant p .ula then some .ula
  else if c.scldPortReadback && portMatches c.variant p .mode then some .mode
  else if c.scldPortReadback && portMatches c.variant p .hsr then some .hsr
  else none

/-- `chipset_read` of a register `readableReg` found (R347, R351). -/
def chipsetRead (r : ChipReg) (s : State) : Byte × State :=
  match r with
  | .ula => drawUlaInput s
  | .paging => drawFloating s
  | .mode => (s.mode, s)
  | .hsr => (s.hsr, s)

/-- Whether some chipset register takes a write of the port (R335, R345). -/
def chipsetTakesWrite (c : Cfg) (p : Addr) : Bool :=
  portMatches c.variant p .ula || portMatches c.variant p .paging || portMatches c.variant p .mode
    || portMatches c.variant p .hsr

/-- The ULA write (R346, R135). -/
def writeUla (v : Byte) (s : State) : State :=
  { s with border := v.extractLsb' 0 3, earmic := v.extractLsb' 3 2 }

/-- The write of one port register (R346, R348 to R350). -/
def writeChipReg (r : ChipReg) (v : Byte) (s : State) : State :=
  match r with
  | .ula => writeUla v s
  | .paging => writePaging v false s
  | .mode => writeMode v s
  | .hsr => writeHsr v s

/-- One register's turn in a port write: it acts if its decode matches (R345). -/
def writeIfMatches (p : Addr) (v : Byte) (r : ChipReg) (s : State) : State :=
  if portMatches s.cfg.variant p r then writeChipReg r v s else s

/-- `chipset_write` (R345): ULA, PAGING, MODE, HSR, each that matches, then one `note`. -/
def chipsetWrite (p : Addr) (v : Byte) (ts : Stamp) (s : State) : State :=
  unlessFaulted (note ts) (unlessFaulted (writeIfMatches p v .hsr) (unlessFaulted (writeIfMatches p v .mode)
    (unlessFaulted (writeIfMatches p v .paging) (writeIfMatches p v .ula s))))

/-- `decode(port, dir)` of a device (R331). -/
def agentClaims (a : Agent) (p : Addr) (d : Dir) : Bool :=
  (match d with
    | .read => a.reads
    | .write => a.writes).any fun r => decide (r.lo.toNat ≤ p.toNat) && decide (p.toNat ≤ r.hi.toNat)

/-- The first device that claims the port, with its index counted from `k` (R333 to R335). -/
def claimFrom (p : Addr) (d : Dir) : Nat → List Device → Option (Nat × Device)
  | _, [] => none
  | k, x :: xs => if agentClaims x.agent p d then some (k, x) else claimFrom p d (k + 1) xs

/-- The first device in DEV order that claims the port. -/
def claimant (s : State) (p : Addr) (d : Dir) : Option (Nat × Device) := claimFrom p d 0 s.dev

/-- Call a device's `read` or `write` inside a bus cycle of the CPU call `c` (R331). -/
def askIo (c : CpuCall) (d : Dir) (wait : BitVec 32) (k id : Nat) (op : DevOp) (s : State) : State :=
  recordCall (.dev k id op) { s with pend := .io c d wait }

/-- What a device called for I/O does next: a host command from the callback is re-entrant (R354); its return answers the
bus cycle with the wait computed before the call, or with zeros after a fault (R412). -/
def ioEvent (c : CpuCall) (d : Dir) (wait : BitVec 32) (e : DevEvent) (s : State) : State :=
  match e with
  | .command _ => raise .reentrant s
  | .ret data _ =>
    let s := { s with pend := .cpu c }
    if s.ctrl = .faulted then { s with busReply := BusReply.zero }
    else
      match d with
      | .read => busAnswer wait false data s
      | .write => busAnswer wait false 0 s

/-- Take what the called device has already said, until it returns. -/
def settleIo : Nat → State → State
  | 0, s => s
  | fuel + 1, s =>
    match s.pend, s.devIn with
    | .io c d wait, e :: es => settleIo fuel (ioEvent c d wait e { s with devIn := es })
    | .io _ _ _, [] => s
    | .idle, _ => s
    | .cpu _, _ => s
    | .notify _ _, _ => s

/-- `settleIo` with as much fuel as there are answers. -/
def settleIoAll (s : State) : State := settleIo s.devIn.length s

/-- `port_read` and the reply of IO_READ (R334, R352), in the CPU call `c`. -/
def portRead (c : CpuCall) (p : Addr) (ts : Stamp) (wait : BitVec 32) (s : State) : State :=
  match readableReg s.cfg p with
  | some r => let (v, s) := chipsetRead r s; busAnswer wait false v s
  | none =>
    match claimant s p .read with
    | some (k, x) => settleIoAll (askIo c .read wait k x.agent.id (.read p ts) s)
    | none => let (v, s) := drawFloating s; busAnswer wait false v s

/-- The reply of a chipset write: its wait, or zeros if it faulted (R353, R412). -/
def answerWrite (wait : BitVec 32) (s : State) : State :=
  if s.ctrl = .faulted then { s with busReply := BusReply.zero } else busAnswer wait false 0 s

/-- `port_write` and the reply of IO_WRITE (R335, R353), in the CPU call `c`. -/
def portWrite (c : CpuCall) (p : Addr) (v : Byte) (ts : Stamp) (wait : BitVec 32) (s : State) : State :=
  if chipsetTakesWrite s.cfg p then answerWrite wait (chipsetWrite p v ts s)
  else
    match claimant s p .write with
    | some (k, x) => settleIoAll (askIo c .write wait k x.agent.id (.write p v ts) s)
    | none => busAnswer wait false 0 s

end Sys2Proof.Machine
end

