-- ==== Sys2Proof/Machine/BusCycles.lean ====
section
/-! DEFINITION. The eight bus cycles (R194, R204, R205, R261 to R264, R352, R353): how the block serves each inside a CPU
call, and the meaning of each as an operation of the bus channel. -/

namespace Sys2Proof.Machine

/-- Every bus word's entry: it is ignored after a fault (R412), the calls that carry no bus words refuse it with CPU_FAULT
(R200; log entry 11), and its timestamp is checked (R194) before the cycle `perform` is served. -/
def busCycle (ts : Stamp) (perform : CpuCall → State → State) (s : State) : State :=
  if s.ctrl = .faulted then { s with busReply := BusReply.zero }
  else
    let go (c : CpuCall) : State :=
      if ts.toNat < s.lastBusTs.toNat ∨ 2 * s.cfg.n ≤ ts.toNat then busFault .tsOrder { s with busUsed := true }
      else perform c { s with busUsed := true, lastBusTs := ts }
    match s.pend with
    | .cpu (.step single) => go (.step single)
    | .cpu (.nmi claimed) => go (.nmi claimed)
    | .cpu (.reset _) => busFault .cpuFault s
    | .cpu .save => busFault .cpuFault s
    | .cpu .check => busFault .cpuFault s
    | .cpu .restore => busFault .cpuFault s
    | .idle => busFault .cpuFault s
    | .io _ _ _ => busFault .cpuFault s
    | .notify _ _ => busFault .cpuFault s

/-- A bus word that spells no bus cycle (R117); the format check comes before the timestamp check (R420). -/
def badBusWord (s : State) : State := busFault .cpuFault s

/-- A cycle goes on with its wait. A wait that WAIT does not hold is a fault (R12), CONFIG, in the place where the rule
computes it; log entry 19. -/
def withWait (wait : Option (BitVec 32)) (perform : BitVec 32 → State → State) (s : State) : State :=
  match wait with
  | some w => perform w s
  | none => busFault .config s

/-- The reply of a memory cycle (R257, R261 to R264). -/
def answerMem (wait : Option (BitVec 32)) (v : Byte) (s : State) : State :=
  withWait wait (fun w s => busAnswer w false v s) s

/-- FETCH (R261). -/
def serveFetch (a : Addr) (ts : Stamp) (s : State) : State :=
  busCycle ts (fun _ s => let (v, s) := memRead a s; answerMem (memWait a ts s) v s) s

/-- MEM_READ, as FETCH (R262). -/
def serveMemRead (a : Addr) (ts : Stamp) (s : State) : State :=
  busCycle ts (fun _ s => let (v, s) := memRead a s; answerMem (memWait a ts s) v s) s

/-- MEM_WRITE (R263): the byte is written before the wait is computed. -/
def serveMemWrite (v : Byte) (a : Addr) (ts : Stamp) (s : State) : State :=
  busCycle ts (fun _ s => answerMem (memWait a ts s) 0 (memWrite a v s)) s

/-- IO_READ (R352). -/
def serveIoRead (p : Addr) (ts : Stamp) (s : State) : State :=
  busCycle ts (fun c s => withWait (ioWait p ts s) (portRead c p ts) s) s

/-- IO_WRITE (R353): the wait uses the bank table before the write (R90). -/
def serveIoWrite (v : Byte) (p : Addr) (ts : Stamp) (s : State) : State :=
  busCycle ts (fun c s => withWait (ioWait p ts s) (portWrite c p v ts) s) s

/-- CONTEND (R264). -/
def serveContend (a : Addr) (ts : Stamp) (s : State) : State :=
  busCycle ts (fun _ s => answerMem (memWait a ts s) 0 s) s

/-- INT_SAMPLE (R204). -/
def serveIntSample (ts : Stamp) (s : State) : State :=
  busCycle ts (fun _ s => busAnswer 0 (intActive s ts) 0 s) s

/-- INT_ACK (R205): a free byte; ADDR is ignored. -/
def serveIntAck (ts : Stamp) (s : State) : State :=
  busCycle ts (fun _ s => let (v, s) := drawFloating s; busAnswer 0 false v s) s

/-- A bus word has a meaning only while the block is inside a call to the CPU capability (R110); log entry 10. -/
def inCpuCall (s : State) : Bool :=
  match s.pend with
  | .cpu _ => true
  | .idle => false
  | .io _ _ _ => false
  | .notify _ _ => false

/-- Serve a bus word where the channel carries one. -/
def onBus (serve : State → State) (s : State) : Host.Outcome State Fault Refusal :=
  if inCpuCall s then .next (serve s) else .fault .busWordOutsideCall

/-- The meaning of FETCH (R261). -/
def execFetch (addr : Addr) (ts : Stamp) (s : State) : Host.Outcome State Fault Refusal := onBus (serveFetch addr ts) s

/-- The meaning of MEM_READ (R262). -/
def execMemRead (addr : Addr) (ts : Stamp) (s : State) : Host.Outcome State Fault Refusal :=
  onBus (serveMemRead addr ts) s

/-- The meaning of MEM_WRITE (R263). -/
def execMemWrite (data : Byte) (addr : Addr) (ts : Stamp) (s : State) : Host.Outcome State Fault Refusal :=
  onBus (serveMemWrite data addr ts) s

/-- The meaning of IO_READ (R352). -/
def execIoRead (port : Addr) (ts : Stamp) (s : State) : Host.Outcome State Fault Refusal := onBus (serveIoRead port ts) s

/-- The meaning of IO_WRITE (R353). -/
def execIoWrite (data : Byte) (port : Addr) (ts : Stamp) (s : State) : Host.Outcome State Fault Refusal :=
  onBus (serveIoWrite data port ts) s

/-- The meaning of CONTEND (R264). -/
def execContend (addr : Addr) (ts : Stamp) (s : State) : Host.Outcome State Fault Refusal :=
  onBus (serveContend addr ts) s

/-- The meaning of INT_SAMPLE (R204). -/
def execIntSample (ts : Stamp) (s : State) : Host.Outcome State Fault Refusal := onBus (serveIntSample ts) s

/-- The meaning of INT_ACK (R205). -/
def execIntAck (_addr : Addr) (ts : Stamp) (s : State) : Host.Outcome State Fault Refusal := onBus (serveIntAck ts) s

/-- The bus cycle of a decoded bus word; no host command comes from the bus decoder. -/
def serveBus (i : Instr) (s : State) : State :=
  match i with
  | .fetch a ts => serveFetch a ts s
  | .memRead a ts => serveMemRead a ts s
  | .memWrite v a ts => serveMemWrite v a ts s
  | .ioRead p ts => serveIoRead p ts s
  | .ioWrite v p ts => serveIoWrite v p ts s
  | .contend a ts => serveContend a ts s
  | .intSample ts => serveIntSample ts s
  | .intAck _ ts => serveIntAck ts s
  | .runFrame => s
  | .ensureFrame => s
  | .step _ => s
  | .reset _ => s
  | .nmi => s
  | .mapPaged _ _ => s
  | .mapRomBank _ _ => s
  | .mapRamBank _ _ => s
  | .rdreg _ _ => s
  | .wrreg _ _ => s
  | .attach _ _ => s
  | .detach _ => s
  | .find _ => s
  | .save => s
  | .restore => s
  | .swapVariant _ => s

end Sys2Proof.Machine
end

