-- ==== Sys2Proof/Machine/Control.lean ====
section
/-! DEFINITION. The execution control: the frame-boundary transition (R166), the step (R192, R164), what follows each
outside call, and the run through what the agents have already said. -/

namespace Sys2Proof.Machine

/-- Call the CPU capability. -/
def callCpu (c : CpuCall) (a : AgentCall) (s : State) : State := recordCall a { s with pend := .cpu c }

/-- The operation a notification calls, with the current TSC (R337 to R340). -/
def noticeOp (ts : Stamp) : Notice → DevOp
  | .boundary _ => .onFrameBoundary ts
  | .reset => .onReset ts
  | .nmi _ => .onNmi ts

/-- The name of device `k`'s agent. -/
def agentIdAt (s : State) (k : Nat) : Nat := (s.dev[k]?.map fun d => d.agent.id).getD 0

/-- Call device `k` with a notification. -/
def askDev (k : Nat) (n : Notice) (s : State) : State :=
  recordCall (.dev k (agentIdAt s k) (noticeOp s.tsc n)) { s with pend := .notify k n }

/-- The wrap of the frame-boundary transition, after the devices were told (R166). -/
def wrap (s : State) : State :=
  logRestart { s with tsc := BitVec.ofNat 32 (s.tsc.toNat - s.cfg.n), frames := s.frames + 1 }

/-- The state at the start of a step or of the CPU's NMI entry: no bus word was issued and no wait given (R192, R202). -/
def startCall (s : State) : State := { s with stepStart := s.tsc, lastBusTs := s.tsc, busUsed := false, waitsGiven := 0 }

/-- The start of a step (R192). -/
def beginStep (single dbg : Bool) (s : State) : State := callCpu (.step single) (.cpuStep s.tsc dbg) (startCall s)

/-- The start of the CPU's NMI entry, after the devices were told (R202). -/
def beginNmi (claimed : Bool) (s : State) : State := callCpu (.nmi claimed) (.cpuNmi s.tsc) (startCall s)

/-- NMI: the devices first, then the CPU (R202, R340). -/
def startNmi (s : State) : State :=
  match s.dev with
  | [] => beginNmi false s
  | _ :: _ => askDev 0 (.nmi false) s

/-- The end of RESET, after the devices were told (R200). -/
def endReset (s : State) : State := endCmd .ok 0 (note s.tsc s)

/-- The register part of a soft reset (R53). -/
def softReset (s : State) : State :=
  { s with border := 0, earmic := 0,
           mode := if s.cfg.variant = .scld then BitVec.ofBool (poolSel s) ++ (0 : BitVec 7) else s.mode }

/-- The register part of a hard reset (R52, R54). -/
def hardReset (s : State) : State := { s with border := 0, earmic := 0, paging := 0, mode := 0, hsr := 0 }

/-- `for each slot i: remap(i, home(i))` (R200). -/
def remapHome (s : State) : State :=
  (List.range s.cfg.slotCount).foldl
    (fun s i => unlessFaulted (fun s => remap i (homeTarget s.cfg s.paging i) s) s) s

/-- RESET after `CPU.reset` returned: registers, table, then the devices (R200). -/
def resetAfterCpu (hard : Bool) (s : State) : State :=
  let s := if hard then remapHome (hardReset s) else softReset s
  if s.ctrl = .faulted then stopCmd s
  else
    match s.dev with
    | [] => endReset s
    | _ :: _ => askDev 0 .reset s

/-- A register or mapping command after `ensure()`: its write, then `note(TSC)`, then OK (R252 to R254, R372). -/
def writeThenNote (write : State → State) (s : State) : State :=
  endCmd .ok 0 (unlessFaulted (fun s => note s.tsc s) (write s))

/-- WRREG after `ensure()` (R372). -/
def wrregAfter (reg value : BitVec 8) (s : State) : State :=
  match writableRegOf s.cfg.variant reg with
  | some r => writeThenNote (writeReg r value) s
  | none => endCmd .illegal 0 { s with refused := true }

/-- The loop test of RUN_FRAME (R197). -/
def runFrameLoop (s : State) : State :=
  if s.tsc.toNat < s.cfg.n then beginStep false false s else endCmd .ok 0 s

/-- What a command does once `ensure()` is done. -/
def afterEnsure (c : Cmd) (s : State) : State :=
  match c with
  | .ensureFrame => endCmd .ok 0 s
  | .runFrame => runFrameLoop { s with ctrl := .running }
  | .step dbg => beginStep true dbg { s with ctrl := .singleStepping }
  | .reset hard => callCpu (.reset hard) (.cpuReset hard) { s with ctrl := .resetting }
  | .nmi => startNmi { s with ctrl := .servicingNmi }
  | .mapPaged pool mask => writeThenNote (mapPagedWrite pool mask) s
  | .mapRomBank slot bank => writeThenNote (remap slot.toNat ⟨.rom, .fixed, bank.toNat⟩) s
  | .mapRamBank slot bank => writeThenNote (remap slot.toNat ⟨.ram, .fixed, bank.toNat⟩) s
  | .wrreg reg value => wrregAfter reg value s

/-- `ensure()` and what follows it (R196): at frame-over the devices are told, the frame wraps, the command goes on. -/
def ensure (c : Cmd) (s : State) : State :=
  if frameOver s then
    match s.dev with
    | [] => afterEnsure c (wrap s)
    | _ :: _ => askDev 0 (.boundary c) s
  else afterEnsure c s

/-- What follows the last device of a notification. -/
def afterNotice (n : Notice) (s : State) : State :=
  match n with
  | .boundary c => afterEnsure c (wrap s)
  | .reset => endReset s
  | .nmi claimed => beginNmi claimed s

/-- A notification with the reply of the device just called taken in (R340). -/
def noticeWith (claim : Bool) : Notice → Notice
  | .boundary c => .boundary c
  | .reset => .reset
  | .nmi claimed => .nmi (claimed || claim)

/-- What a notified device does next (R337, R354); every device is called whatever the others replied. -/
def noticeEvent (k : Nat) (n : Notice) (e : DevEvent) (s : State) : State :=
  match e with
  | .command _ => raise .reentrant s
  | .ret _ claim =>
    if s.ctrl = .faulted then stopCmd s
    else if k + 1 < s.dev.length then askDev (k + 1) (noticeWith claim n) s
    else afterNotice (noticeWith claim n) s

/-- Step accumulation (R164). CYCLES that cannot include every wait given break a duty, which faults the instance (R459); the
bit TS_ORDER (DEDUCED from D26) and the place after R420's checks (DESIGN CHOICE) are log entry 32. -/
def accumulate (cycles : BitVec 32) (s : State) : State :=
  if cycles = 0 then raise .zeroStep s
  else if s.cfg.n < cycles.toNat then raise .tscOverflow s
  else if cycles.toNat < s.waitsGiven then raise .tsOrder s
  else { s with tsc := BitVec.ofNat 32 (s.tsc.toNat + cycles.toNat) }

/-- The bound on the last bus timestamp, then the accumulation (R192, R202). -/
def commitStep (cycles : BitVec 32) (s : State) : State :=
  if s.stepStart.toNat + cycles.toNat < s.lastBusTs.toNat then raise .tsOrder s else accumulate cycles s

/-- OUTCOME 2 or 3 is a fault of the CPU (R119, R195). -/
def outcomeFaults (o : BitVec 2) : Bool := o == 2 || o == 3

/-- The result STEP and NMI give for an OUTCOME (R199, R202). -/
def outcomeResult (o : BitVec 2) : Result := if o = 1 then .brk else .ok

/-- The end of a step's call (R192, R195, R197, R199). -/
def stepReturn (single : Bool) (r : CpuReply) (s : State) : State :=
  let s := if outcomeFaults r.outcome then raise .cpuFault s else commitStep r.cycles s
  if s.ctrl = .faulted then stopCmd s
  else if single then endCmd (outcomeResult r.outcome) 0 s
  else runFrameLoop s

/-- The end of the NMI entry's call (R202): STATUS first, then the checks. -/
def nmiReturn (claimed : Bool) (r : CpuReply) (s : State) : State :=
  let s := { s with nmiClaimed := claimed, nmiAccepted := r.accepted }
  if s.ctrl = .faulted then stopCmd s
  else
    endCmd (outcomeResult r.outcome) 0
      (if outcomeFaults r.outcome then raise .cpuFault s
       else if r.accepted then commitStep r.cycles s
       else if r.cycles ≠ 0 ∨ s.busUsed then raise .cpuFault s
       else s)

/-- The end of SAVE (R378). A CPU blob of 2^32 bytes or more does not fit CPU_BYTES: it is a fault (R12), CPU_FAULT, and no
blob is replied; log entry 29. -/
def saveReturn (cpu : List Byte) (s : State) : State :=
  endCmd .ok 0 (if cpu.length < 2 ^ 32 then { s with blob := snapshot s cpu } else raise .cpuFault s)

/-- The blob RESTORE was given; with no payload, no bytes (log entry 14). -/
def payloadBlob : Payload → List Byte
  | .blob b => b
  | .none => []
  | .agent _ => []
  | .cfg _ => []

/-- The apply phase of RESTORE (R381, R382). -/
def applyRestore (s : State) : State := finish .ok 0 (logRestart (loadSnapshot (payloadBlob s.payload) s))

/-- RESTORE after the CPU's check (R380). -/
def checkReturn (accepted : Bool) (s : State) : State :=
  if accepted then
    callCpu .restore (.cpuRestore (cpuBlob s.cfg (payloadBlob s.payload))) s
  else endCmd .restoreMismatch 0 s

/-- What a call of the CPU capability ends with. After a fault the command stops at once (R191, R412), but NMI still writes
STATUS (R202; log entry 13). -/
def cpuReturn (c : CpuCall) (r : CpuReply) (s : State) : State :=
  match c with
  | .nmi claimed => nmiReturn claimed r s
  | .step single => if s.ctrl = .faulted then stopCmd s else stepReturn single r s
  | .reset hard => if s.ctrl = .faulted then stopCmd s else resetAfterCpu hard s
  | .save => if s.ctrl = .faulted then stopCmd s else saveReturn r.blob s
  | .check => if s.ctrl = .faulted then stopCmd s else checkReturn r.accepted s
  | .restore => if s.ctrl = .faulted then stopCmd s else applyRestore s

/-- What a called CPU capability does next (R193, R354): a bus word is served or faults, a host command is re-entrant. -/
def cpuEvent (c : CpuCall) (e : CpuEvent) (s : State) : State :=
  match e with
  | .command _ => raise .reentrant s
  | .ret r => cpuReturn c r s
  | .bus w =>
    match decodeBus w with
    | .ok i => serveBus i s
    | .error _ => badBusWord s

/-- One micro-step (R17): the agent whose turn it is does the next thing it has to say. None when no call is outstanding or
the agent has said nothing yet. -/
def micro (s : State) : Option State :=
  match s.pend with
  | .idle => none
  | .cpu c =>
    match s.cpuIn with
    | [] => none
    | e :: es => some (cpuEvent c e { s with cpuIn := es })
  | .io c d wait =>
    match s.devIn with
    | [] => none
    | e :: es => some (ioEvent c d wait e { s with devIn := es })
  | .notify k n =>
    match s.devIn with
    | [] => none
    | e :: es => some (noticeEvent k n e { s with devIn := es })

/-- Micro-steps while there are any, at most `fuel`. -/
def settle : Nat → State → State
  | 0, s => s
  | fuel + 1, s =>
    match micro s with
    | none => s
    | some s' => settle fuel s'

/-- How many things the called agents have still to say; every micro-step takes at least one. -/
def pendingEvents (s : State) : Nat := s.cpuIn.length + s.devIn.length

/-- A host command is one atomic transition to the host (R17): it runs through everything the agents have said, to its end
or to where an agent has not answered yet. Log entry 2. -/
def settleAll (s : State) : State := settle (pendingEvents s) s

/-- A command of the host channel as an outcome: a faulted instance is a next state (R412). -/
def hostCommand (legal : Bool) (perform : State → State) (s : State) : Host.Outcome State Fault Refusal :=
  .next (accept legal perform s)

end Sys2Proof.Machine
end

