-- ==== Sys2Proof/Machine/Frame.lean ====
section
/-! DEFINITION. The meanings of the frame, step, reset and NMI commands (R196 to R202). -/

namespace Sys2Proof.Machine

/-- RUN_FRAME (R197). -/
def execRunFrame (s : State) : Host.Outcome State Fault Refusal :=
  hostCommand true (fun s => settleAll (ensure .runFrame s)) s

/-- ENSURE_FRAME (R196). -/
def execEnsureFrame (s : State) : Host.Outcome State Fault Refusal :=
  hostCommand true (fun s => settleAll (ensure .ensureFrame s)) s

/-- STEP (R199). -/
def execStep (dbg : Bool) (s : State) : Host.Outcome State Fault Refusal :=
  hostCommand true (fun s => settleAll (ensure (.step dbg) s)) s

/-- RESET (R200). -/
def execReset (hard : Bool) (s : State) : Host.Outcome State Fault Refusal :=
  hostCommand true (fun s => settleAll (ensure (.reset hard) s)) s

/-- NMI (R202). -/
def execNmi (s : State) : Host.Outcome State Fault Refusal :=
  hostCommand true (fun s => settleAll (ensure .nmi s)) s

end Sys2Proof.Machine
end

