-- ==== Sys2Proof/Machine/Mapping.lean ====
section
/-! DEFINITION. The meanings of the mapping commands (R252 to R254). -/

namespace Sys2Proof.Machine

/-- MAP_PAGED (R252), ILLEGAL on a variant other than SCLD (R114). -/
def execMapPaged (pool : Bool) (mask : BitVec 8) (s : State) : Host.Outcome State Fault Refusal :=
  hostCommand (decide (s.cfg.variant = .scld)) (fun s => settleAll (ensure (.mapPaged pool mask) s)) s

/-- MAP_ROM_BANK (R253). -/
def execMapRomBank (slot bank : BitVec 8) (s : State) : Host.Outcome State Fault Refusal :=
  hostCommand true (fun s => settleAll (ensure (.mapRomBank slot bank) s)) s

/-- MAP_RAM_BANK (R254). -/
def execMapRamBank (slot bank : BitVec 8) (s : State) : Host.Outcome State Fault Refusal :=
  hostCommand true (fun s => settleAll (ensure (.mapRamBank slot bank) s)) s

end Sys2Proof.Machine
end

