-- ==== Sys2Proof/Machine/Persist.lean ====
section
/-! DEFINITION. The meanings of SAVE, RESTORE and SWAP_VARIANT (R378 to R386). -/

namespace Sys2Proof.Machine

/-- SAVE's rule up to the CPU's blob (R378). -/
def saveRule (s : State) : State := callCpu .save .cpuSave s

/-- RESTORE's rule up to the CPU's check (R380). -/
def restoreRule (s : State) : State :=
  let b := payloadBlob s.payload
  if snapshotOk s.cfg b then callCpu .check (.cpuCheck (cpuBlob s.cfg b)) s else endCmd .restoreMismatch 0 s

/-- The record handed over with SWAP_VARIANT, if there is one (log entry 14). -/
def payloadCfg : Payload → Option Cfg
  | .cfg c => some c
  | .none => none
  | .agent _ => none
  | .blob _ => none

/-- The record SWAP_VARIANT accepts: for the tag's variant, and valid (R383). -/
def swapTarget (tag : BitVec 8) (p : Payload) : Option Cfg :=
  (payloadCfg p).filter fun c => decide (variantOfTag tag = some c.variant) && c.valid

/-- The state after the swap (R383 to R385): power-on of the target, with RAM re-chunked and BORDER, REFUSED and what is
no state of the chipset kept. -/
def swapped (c : Cfg) (s : State) : State :=
  { State.powerOn c with
    ram := rechunk s c
    ramGen := s.draws
    draws := s.draws + 1
    border := s.border
    refused := s.refused
    blob := s.blob
    busReply := s.busReply
    calls := s.calls
    payload := s.payload
    hostIn := s.hostIn
    cpuIn := s.cpuIn
    devIn := s.devIn }

/-- SWAP_VARIANT's rule (R383). -/
def swapRule (tag : BitVec 8) (s : State) : State :=
  match swapTarget tag s.payload with
  | none => endCmd .ok 0 (raise .config s)
  | some c => finish .ok 0 (logRestart (swapped c s))

/-- SAVE (R378). -/
def execSave (s : State) : Host.Outcome State Fault Refusal := hostCommand true (fun s => settleAll (saveRule s)) s

/-- RESTORE (R380 to R382). -/
def execRestore (s : State) : Host.Outcome State Fault Refusal :=
  hostCommand true (fun s => settleAll (restoreRule s)) s

/-- SWAP_VARIANT (R383 to R386). -/
def execSwapVariant (variant : BitVec 8) (s : State) : Host.Outcome State Fault Refusal :=
  hostCommand true (swapRule variant) s

end Sys2Proof.Machine
end

