-- ==== Sys2Proof/Machine/Registers.lean ====
section
/-! DEFINITION. The meanings of the register commands (R371 to R377). -/

namespace Sys2Proof.Machine

/-- RDREG's reply (R121, R371): the register zero-extended. A number the register's width does not hold (L of 2^32 or more,
N or SLOT_COUNT of an invalid record) is not replied (R12): it is the fault CONFIG, and in FAULTED, where no further fault is
raised, the reply FAULTED. DESIGN CHOICE, unsafe, log entry 27. -/
def replyReg (bits n : Nat) (s : State) : State :=
  if n < 2 ^ bits then finish .ok (val64 n) s else stopCmd (refuseFaulted (raise .config s))

/-- RDREG (R371): accepted in FAULTED, which it leaves. -/
def execRdreg (reg : BitVec 8) (idx : BitVec 16) (s : State) : Host.Outcome State Fault Refusal :=
  match readRegNum s reg idx with
  | some (bits, n) => .next (acceptRead true (replyReg bits n) s)
  | none => .next (acceptRead false id s)

/-- WRREG (R372 to R377). -/
def execWrreg (reg value : BitVec 8) (s : State) : Host.Outcome State Fault Refusal :=
  hostCommand (writableRegOf s.cfg.variant reg).isSome (fun s => settleAll (ensure (.wrreg reg value) s)) s

end Sys2Proof.Machine
end

