-- ==== Sys2Proof/Machine/Registry.lean ====
section
/-! DEFINITION. The meanings of the registry commands (R341 to R344). -/

namespace Sys2Proof.Machine

/-- The agent handed over with ATTACH; without one, an agent that claims no port (log entry 14). -/
def payloadAgent : Payload → Agent
  | .agent a => a
  | .none => ⟨0, [], []⟩
  | .blob _ => ⟨0, [], []⟩
  | .cfg _ => ⟨0, [], []⟩

/-- The index after the sub-chain that starts below index `k`: the least `j ≥ k` whose depth is at most `d`, or the end
(R341, R342). -/
def subchainEnd (d : Nat) : Nat → List Device → Nat
  | k, [] => k
  | k, x :: xs => if x.depth.toNat ≤ d then k else subchainEnd d (k + 1) xs

/-- The end of the sub-chain of the device at `p` of depth `d`. -/
def chainEnd (dev : List Device) (p d : Nat) : Nat := subchainEnd d (p + 1) (dev.drop (p + 1))

/-- Insert a record at index `k` (R341). -/
def insertDev (k : Nat) (x : Device) (s : State) : State :=
  { s with dev := s.dev.take k ++ x :: s.dev.drop k }

/-- ATTACH's rule (R341). -/
def attachRule (parent : BitVec 8) (tag : BitVec 16) (s : State) : State :=
  if s.dev.length = s.cfg.devMax then endCmd .ok 0 (raise .config s)
  else if parent = 0xFF then
    finish .ok (val64 s.dev.length) (insertDev s.dev.length ⟨tag, 0, payloadAgent s.payload⟩ s)
  else
    match s.dev[parent.toNat]? with
    | none => endCmd .ok 0 (raise .config s)
    | some p =>
      let k := chainEnd s.dev parent.toNat p.depth.toNat
      finish .ok (val64 k) (insertDev k ⟨tag, p.depth + 1, payloadAgent s.payload⟩ s)

/-- The least index of a device with the tag (R343, R344). -/
def findTag (tag : BitVec 16) : Nat → List Device → Option Nat
  | _, [] => none
  | k, x :: xs => if x.tag = tag then some k else findTag tag (k + 1) xs

/-- DETACH's rule (R342): the device and its sub-chain go. -/
def detachRule (tag : BitVec 16) (s : State) : State :=
  match findTag tag 0 s.dev with
  | none => finish .notFound 0 s
  | some k =>
    let e := chainEnd s.dev k ((s.dev[k]?.map fun d => d.depth.toNat).getD 0)
    finish .ok (val64 (e - k)) { s with dev := s.dev.take k ++ s.dev.drop e }

/-- FIND's rule (R343). -/
def findRule (tag : BitVec 16) (s : State) : State :=
  match findTag tag 0 s.dev with
  | none => finish .notFound 0 s
  | some k => finish .ok (val64 k) s

/-- ATTACH (R341). -/
def execAttach (parent : BitVec 8) (tag : BitVec 16) (s : State) : Host.Outcome State Fault Refusal :=
  hostCommand (tag != 0) (attachRule parent tag) s

/-- DETACH (R342). -/
def execDetach (tag : BitVec 16) (s : State) : Host.Outcome State Fault Refusal := hostCommand true (detachRule tag) s

/-- FIND (R343). -/
def execFind (tag : BitVec 16) (s : State) : Host.Outcome State Fault Refusal := hostCommand true (findRule tag) s

end Sys2Proof.Machine
end

