-- ==== Sys2Proof/Machine/Dispatch.lean ====
section
/-! DEFINITION. One arm per operation, each one call of its meaning. -/

namespace Sys2Proof.Machine

def exec (i : Instr) (s : State) : Host.Outcome State Fault Refusal :=
  match i with
  | .runFrame => Sys2Proof.Machine.execRunFrame s
  | .ensureFrame => Sys2Proof.Machine.execEnsureFrame s
  | .step dbg => Sys2Proof.Machine.execStep dbg s
  | .reset hard => Sys2Proof.Machine.execReset hard s
  | .nmi => Sys2Proof.Machine.execNmi s
  | .mapPaged pool mask => Sys2Proof.Machine.execMapPaged pool mask s
  | .mapRomBank slot bank => Sys2Proof.Machine.execMapRomBank slot bank s
  | .mapRamBank slot bank => Sys2Proof.Machine.execMapRamBank slot bank s
  | .rdreg reg idx => Sys2Proof.Machine.execRdreg reg idx s
  | .wrreg reg value => Sys2Proof.Machine.execWrreg reg value s
  | .attach parent tag => Sys2Proof.Machine.execAttach parent tag s
  | .detach tag => Sys2Proof.Machine.execDetach tag s
  | .find tag => Sys2Proof.Machine.execFind tag s
  | .save => Sys2Proof.Machine.execSave s
  | .restore => Sys2Proof.Machine.execRestore s
  | .swapVariant variant => Sys2Proof.Machine.execSwapVariant variant s
  | .fetch addr ts => Sys2Proof.Machine.execFetch addr ts s
  | .memRead addr ts => Sys2Proof.Machine.execMemRead addr ts s
  | .memWrite data addr ts => Sys2Proof.Machine.execMemWrite data addr ts s
  | .ioRead port ts => Sys2Proof.Machine.execIoRead port ts s
  | .ioWrite data port ts => Sys2Proof.Machine.execIoWrite data port ts s
  | .contend addr ts => Sys2Proof.Machine.execContend addr ts s
  | .intSample ts => Sys2Proof.Machine.execIntSample ts s
  | .intAck addr ts => Sys2Proof.Machine.execIntAck addr ts s

end Sys2Proof.Machine
end

