-- ==== Sys2Proof/Machine/Fetch.lean ====
section
/-! DEFINITION. What a step takes next (R17): a host word when no command is active, else the next word or reply of the
agent whose turn it is. And where a word of either channel is placed so that the next step takes it. -/

namespace Sys2Proof.Machine

/-- What the next step is: run an operation in a state, or come to a state. -/
inductive Fetched where
  | run (i : Instr) (s : State)
  | done (s : State)

/-- The next step when no command is active: the host's next word, decoded; a word that spells no command is accepted as
illegal (R113, R191). With nothing issued, nothing changes (R86). -/
def fetchHost (s : State) : Fetched :=
  match s.hostIn with
  | [] => .done s
  | h :: hs =>
    let s := { s with hostIn := hs, payload := h.payload }
    match decodeHost h.word with
    | .ok i => .run i s
    | .error _ => .done (acceptIllegal s)

/-- The next step inside a CPU call: a bus word is decoded and run, or faults (R117); anything else is a micro-step. -/
def fetchCpu (c : CpuCall) (s : State) : Fetched :=
  match s.cpuIn with
  | [] => .done s
  | .bus w :: es =>
    let s := { s with cpuIn := es }
    match decodeBus w with
    | .ok i => .run i s
    | .error _ => .done (badBusWord s)
  | .command w :: es => .done (cpuEvent c (.command w) { s with cpuIn := es })
  | .ret r :: es => .done (cpuEvent c (.ret r) { s with cpuIn := es })

/-- What the next step is. -/
def fetchNext (s : State) : Fetched :=
  match s.pend with
  | .idle => fetchHost s
  | .cpu c => fetchCpu c s
  | .io _ _ _ => .done ((micro s).getD s)
  | .notify _ _ => .done ((micro s).getD s)

/-- Place a word where the next step takes it: a host word first in the host's queue with no command active, a bus word
first in the CPU's queue at the start of a step's call. -/
def placeWord (s : State) : Word → State
  | .host w => { s with busy := false, pend := .idle, hostIn := ⟨w, .none⟩ :: s.hostIn }
  | .bus w =>
    { startCall s with busy := true, ctrl := .singleStepping, pend := .cpu (.step true), cpuIn := .bus w :: s.cpuIn }

end Sys2Proof.Machine
end

