-- ==== Sys2Proof/Machine/Step.lean ====
section
/-! DEFINITION. One step of the machine (R17), and the placing of a word for the next step. -/

namespace Sys2Proof.Machine

/-- One step: run the operation the next word spells, or take the next reply of the agent whose turn it is. -/
def step (s : State) : Host.Outcome State Fault Refusal :=
  match fetchNext s with
  | .run i s' => exec i s'
  | .done s' => .next s'

/-- `s` with the opcode table's word placed so that the next step runs it; log entry 3. -/
def State.withFetchWord (s : State) (nbits w : Nat) : State := placeWord s (tableWord nbits w)

end Sys2Proof.Machine
end

