-- ==== Sys2Proof/Safety.lean ====
section
/-! DEFINITION. What counts as a safe run (R465), the premises statements take, and the invariants of the machine. -/

namespace Sys2Proof.Machine

/-- FAULTED (R26, R413). -/
abbrev State.Faulted (s : State) : Prop := s.ctrl = .faulted

/-- The run ended: no command is active and the host has no more (R465). -/
abbrev State.Ended (s : State) : Prop := s.pend = .idle ∧ s.hostIn = []

/-- The end state of a run that stands: ended and not FAULTED (R465). -/
abbrev State.EndState (s : State) : Prop := s.Ended ∧ ¬ s.Faulted

/-- The host may issue a command and have it performed (R191): no command is active and the instance is not FAULTED. -/
abbrev State.Ready (s : State) : Prop := s.busy = false ∧ s.ctrl ≠ .faulted

/-- The frame is in progress (R23), so `ensure()` does nothing (R196). -/
abbrev State.InFrame (s : State) : Prop := s.tsc.toNat < s.cfg.n

/-- A call of `CPU.step` or `CPU.nmi` is waiting for bus words and no fault was raised (R193). -/
def State.Serving (s : State) : Prop :=
  s.ctrl ≠ .faulted ∧ ((∃ b, s.pend = .cpu (.step b)) ∨ (∃ b, s.pend = .cpu (.nmi b)))

/-- The timestamp check a bus word passes (R194). -/
abbrev State.StampOk (s : State) (ts : Stamp) : Prop := s.lastBusTs.toNat ≤ ts.toNat ∧ ts.toNat < 2 * s.cfg.n

/-- `s` as the bus word's cycle sees it once its timestamp passed (R194). -/
def State.atBus (s : State) (ts : Stamp) : State := { s with busUsed := true, lastBusTs := ts }

/-- The bank table has one entry a slot, each in range with CONT the contended predicate (R42 to R44), DOCK on SCLD only
(R246, R380). -/
def SlotsInv (s : State) : Prop :=
  s.slots.length = s.cfg.slotCount ∧
    ∀ e ∈ s.slots, e.cont = contended s.cfg.variant e.kind e.bank.toNat ∧ e.bank.toNat < poolSize s.cfg e.kind
      ∧ (e.kind = .dock → s.cfg.variant = .scld)

/-- One sub-log: no longer than the capacity, nothing in one the variant lacks, LAST the last data or INIT, timestamps
non-decreasing up to LAST_LOG_TS (R45, R46, R48, R299). -/
def SubLogInv (s : State) (id : LogId) : Prop :=
  let l := logOf s.logs id
  l.entries.length ≤ s.cfg.logCapacity ∧
    (logActive s.cfg.variant id = false → l = SubLog.fresh 0) ∧
    l.last = ((l.entries.getLast?).map LogEntry.data).getD l.init ∧
    l.entries.Pairwise (fun a b => a.ts.toNat ≤ b.ts.toNat) ∧
    ∀ e ∈ l.entries, e.ts.toNat ≤ s.lastLogTs.toNat

/-- Every sub-log is in order. -/
def LogsInv (s : State) : Prop := ∀ id, SubLogInv s id

/-- FAULT holds at most one bit, and one exactly in FAULTED (R413, R420). -/
def FaultInv (s : State) : Prop :=
  (s.fault = 0 ∧ s.ctrl ≠ .faulted) ∨ (s.ctrl = .faulted ∧ ∃ b, s.fault = faultMask b)

/-- BUSY says whether a command is active, and between commands CTRL.STATE follows the idle rule (R27, R28). -/
def IdleInv (s : State) : Prop :=
  (s.busy = true ↔ s.pend ≠ .idle) ∧ (s.pend = .idle → s.ctrl ≠ .faulted → s.ctrl = idleCtrl s)

/-- The CPU call a state is inside, if any. -/
def cpuCallOf : Pend → Option CpuCall
  | .idle => none
  | .cpu c => some c
  | .io c _ _ => some c
  | .notify _ _ => none

/-- The clock: TSC below 2N (R23); a step or an NMI entry runs from TSC below N, with its bus timestamps in
`[STEP_START, 2N)` (R165, R172, R194). -/
def ClockInv (s : State) : Prop :=
  s.tsc.toNat < 2 * s.cfg.n ∧
    (∀ c, cpuCallOf s.pend = some c → (∃ b, c = .step b) ∨ (∃ b, c = .nmi b) →
      s.tsc.toNat < s.cfg.n ∧ s.stepStart = s.tsc ∧ s.tsc.toNat ≤ s.lastBusTs.toNat
        ∧ s.lastBusTs.toNat < 2 * s.cfg.n) ∧
    (∀ k b, s.pend = .notify k (.nmi b) → s.tsc.toNat < s.cfg.n)

/-- The registry: at most DEV_MAX devices, no tag 0, depths that form a pre-order (R49, R336, R341). -/
def DevInv (s : State) : Prop :=
  s.dev.length ≤ s.cfg.devMax ∧ (∀ d ∈ s.dev, d.tag ≠ 0) ∧
    (∀ d, s.dev[0]? = some d → d.depth = 0) ∧
    ∀ k d e, s.dev[k]? = some d → s.dev[k + 1]? = some e → e.depth.toNat ≤ d.depth.toNat + 1

/-- Nothing the variant lacks is set: PAGING off PAGED, MODE and HSR off SCLD (R35 to R37). -/
def VariantInv (s : State) : Prop :=
  (s.cfg.variant ≠ .paged → s.paging = 0) ∧ (s.cfg.variant ≠ .scld → s.mode = 0 ∧ s.hsr = 0)

/-- The RAM store is in canonical form and lists addresses of the RAM only (R50). -/
def RamInv (s : State) : Prop := ramWf s.ram = true ∧ ∀ p ∈ s.ram, p.1 < ramBytes s.cfg

/-- Whether a command that waits for the frame boundary is one its variant has (R114, R372). -/
def cmdLegal (v : Variant) : Cmd → Bool
  | .mapPaged _ _ => decide (v = .scld)
  | .wrreg reg _ => (writableRegOf v reg).isSome
  | .ensureFrame => true
  | .runFrame => true
  | .step _ => true
  | .reset _ => true
  | .nmi => true
  | .mapRomBank _ _ => true
  | .mapRamBank _ _ => true

/-- What the outstanding call rests on: a device is asked for I/O only inside a step or an NMI entry, the CPU is asked about
a blob only after the block's own checks (R380), a frame-boundary notification only at frame-over (R166). -/
def PendInv (s : State) : Prop :=
  (∀ c d w, s.pend = .io c d w → (∃ b, c = .step b) ∨ (∃ b, c = .nmi b)) ∧
    (s.pend = .cpu .check ∨ s.pend = .cpu .restore → snapshotOk s.cfg (payloadBlob s.payload) = true) ∧
    ∀ k c, s.pend = .notify k (.boundary c) → s.cfg.n ≤ s.tsc.toNat ∧ cmdLegal s.cfg.variant c = true

/-- LAST_LOG_TS never runs ahead of the clock, so no append can be out of order (R299): it is at most LAST_BUS_TS inside a
step or an NMI entry, and at most TSC elsewhere. -/
def LogClockInv (s : State) : Prop :=
  s.ctrl ≠ .faulted →
    if (match cpuCallOf s.pend with
        | some (.step _) => true
        | some (.nmi _) => true
        | some (.reset _) => false
        | some .save => false
        | some .check => false
        | some .restore => false
        | none => false) then
      s.lastLogTs.toNat ≤ s.lastBusTs.toNat ∧ (s.busUsed = false → s.lastLogTs.toNat ≤ s.tsc.toNat)
    else s.lastLogTs.toNat ≤ s.tsc.toNat

/-- The invariant of the machine: every state a run from a valid construction reaches has it, and every step keeps it. -/
structure Inv (s : State) : Prop where
  cfg      : s.cfg.valid = true
  slots    : SlotsInv s
  logs     : LogsInv s
  fault    : FaultInv s
  idle     : IdleInv s
  clock    : ClockInv s
  dev      : DevInv s
  variant  : VariantInv s
  ram      : RamInv s
  pend     : PendInv s
  logClock : LogClockInv s

/-! The words of the statements, written from the spec's rules and not from the meanings. -/

/-- A command has replied `r` with VALUE `v`: BUSY is 0 and CTRL.STATE follows the idle rule (R27, R191, R207). -/
def State.replied (r : Result) (v : BitVec 64) (s : State) : State :=
  { s with result := r, value := v, busy := false, pend := .idle,
           ctrl := if s.cfg.n ≤ s.tsc.toNat then .atFrameBoundary else .running }

/-- Fault `b` is raised while the command goes on to its end in an outside call (R412). -/
def State.withFault (b : FaultBit) (s : State) : State :=
  { s with fault := s.fault ||| faultMask b, ctrl := .faulted, result := .faulted, value := 0 }

/-- The command ended with fault `b` (R412). -/
def State.stopped (b : FaultBit) (s : State) : State := { s.withFault b with busy := false, pend := .idle }

/-- The reply ILLEGAL (R113, R416). -/
def State.refusedReply (s : State) : State := { s with refused := true, result := .illegal, value := 0 }

/-- The clock moved forward (R165): within the frame TSC did not decrease, or a frame ended, which FRAMES counts and which
takes N off TSC at most (R24, R166). -/
def ClockForward (s t : State) : Prop :=
  (t.frames = s.frames ∧ s.tsc.toNat ≤ t.tsc.toNat) ∨
  (t.frames = s.frames + 1 ∧ s.cfg.n ≤ s.tsc.toNat ∧ s.tsc.toNat ≤ t.tsc.toNat + s.cfg.n)

/-- The next step replaces the whole clock state (R165): RESTORE or SWAP_VARIANT is issued, or RESTORE applies its blob. -/
def State.ReplacesClock (s : State) : Prop :=
  s.pend = .cpu .restore ∨
  (s.pend = .idle ∧ ∃ w p rest, s.hostIn = ⟨w, p⟩ :: rest ∧
    (decodeHost w = .ok .restore ∨ ∃ v, decodeHost w = .ok (.swapVariant v)))

/-- Every sub-log as `log_restart` leaves it (R298). -/
def freshLogs (s : State) : Logs :=
  ⟨⟨eff s .border, eff s .border, []⟩, ⟨eff s .mode, eff s .mode, []⟩, ⟨eff s .shadow, eff s .shadow, []⟩,
    ⟨eff s .source, eff s .source, []⟩⟩

/-- Whether `note` appends to sub-log `id` (R293). -/
def recorded (s : State) (id : LogId) : Bool :=
  logActive s.cfg.variant id && !(decide (id = .border) && hires s) && eff s id != (logOf s.logs id).last

/-- Every sub-log `note(ts)` appends to has room, and `ts` is in order for it (R292, R293). A sub-log it appends nothing to may
be full. -/
abbrev State.LogRoom (s : State) (ts : Stamp) : Prop :=
  ∀ id ∈ logIds, recorded s id = true →
    s.lastLogTs.toNat ≤ ts.toNat ∧ (logOf s.logs id).entries.length < s.cfg.logCapacity

/-- Sub-log `id` after `note(ts)` (R292, R293). -/
def notedLog (s : State) (ts : Stamp) (id : LogId) : SubLog :=
  if recorded s id then ⟨(logOf s.logs id).init, eff s id, (logOf s.logs id).entries ++ [⟨ts, eff s id⟩]⟩
  else logOf s.logs id

/-- The state after `note(ts)` where every append has room (R293). -/
def State.noted (ts : Stamp) (s : State) : State :=
  { s with
    logs := ⟨notedLog s ts .border, notedLog s ts .mode, notedLog s ts .shadow, notedLog s ts .source⟩
    lastLogTs := if logIds.any (recorded s) then ts else s.lastLogTs }

/-- The sub-logs `note` takes before `id` (R293). -/
def logsBefore (id : LogId) : List LogId := logIds.takeWhile fun j => decide (j ≠ id)

/-- `note(ts)` meets a full sub-log, and `id` is the first it meets (R292, R293, R304). -/
abbrev State.LogFull (s : State) (ts : Stamp) (id : LogId) : Prop :=
  s.lastLogTs.toNat ≤ ts.toNat ∧ recorded s id = true ∧ (logOf s.logs id).entries.length = s.cfg.logCapacity ∧
    ∀ j ∈ logsBefore id, recorded s j = true → (logOf s.logs j).entries.length < s.cfg.logCapacity

/-- The state after a `note(ts)` that met the full sub-log `id`: what it appended before stays, and LOG_OVERFLOW is raised
(R293, R412). -/
def State.overflowed (ts : Stamp) (id : LogId) (s : State) : State :=
  let kept := fun j => if j ∈ logsBefore id then notedLog s ts j else logOf s.logs j
  State.withFault .logOverflow
    { s with
      logs := ⟨kept .border, kept .mode, kept .shadow, kept .source⟩
      lastLogTs := if (logsBefore id).any (recorded s) then ts else s.lastLogTs }

/-- The calls that tell every device of the chain in order, newest first (R337). -/
def toldDevices (op : DevOp) (s : State) : List AgentCall :=
  (s.dev.zipIdx.map fun p => AgentCall.dev p.2 p.1.agent.id op).reverse

/-- What devices that return at once answer: for each its byte and its truth value (R331). -/
def deviceReturns (replies : List (Byte × Bool)) : List DevEvent := replies.map fun p => .ret p.1 p.2

/-- The state after a frame-boundary transition in which the devices' answers leave `rest` to be said (R166). -/
def State.newFrame (rest : List DevEvent) (s : State) : State :=
  { s with
    tsc := BitVec.ofNat 32 (s.tsc.toNat - s.cfg.n)
    frames := s.frames + 1
    logs := freshLogs s
    lastLogTs := 0
    calls := .clearRenderingCache :: (toldDevices (.onFrameBoundary s.tsc) s ++ s.calls)
    devIn := rest }

/-- The home entry of slot `i` (R242 to R245), CONT by R240. -/
def homeEntry (c : Cfg) (paging : BitVec 6) (i : Nat) : Slot :=
  match c.variant with
  | .base =>
    if i = 0 then ⟨.rom, .home, 0, false⟩
    else if i - 1 < c.ramBanks then ⟨.ram, .home, BitVec.ofNat 8 (i - 1), decide (i = 1)⟩
    else ⟨.unpopulated, .home, 0, false⟩
  | .paged =>
    if i = 0 then ⟨.rom, .home, if paging.getLsbD 4 then 1 else 0, false⟩
    else if i = 1 then ⟨.ram, .home, 5, true⟩
    else if i = 2 then ⟨.ram, .home, 2, false⟩
    else ⟨.ram, .home, paging.setWidth 8 &&& 7, paging.getLsbD 0⟩
  | .scld =>
    if i < 2 then ⟨.rom, .home, BitVec.ofNat 8 i, false⟩ else ⟨.ram, .home, BitVec.ofNat 8 (i - 2), decide (i < 4)⟩

/-- The extension-ROM bank of slot `i` (R247). -/
def exBank (c : Cfg) (i : Nat) : Nat := c.exPoolBase + i % (c.romBanks - c.reservedRomBanks)

/-- The entry of slot `i` asked from the home layout, the extension ROM or the DOCK (R246 to R248). -/
def wantedEntry (c : Cfg) (paging : BitVec 6) (i : Nat) : SlotSrc → Slot
  | .home => homeEntry c paging i
  | .ex => ⟨.rom, .ex, BitVec.ofNat 8 (exBank c i), false⟩
  | .dock => ⟨.dock, .dock, BitVec.ofNat 8 i, false⟩
  | .fixed => homeEntry c paging i

/-- What HSR and POOL_SEL ask for slot `i` (R250). -/
def wantedSrc (hsr : BitVec 8) (poolEx : Bool) (i : Nat) : SlotSrc :=
  if hsr.getLsbD i then (if poolEx then .ex else .dock) else .home

/-- Every extension-ROM bank that a change of HSR or POOL_SEL puts into a slot fits the 8 bits of BANK (R42, R248). -/
abbrev State.ExBanksFit (s : State) (hsr : BitVec 8) (poolEx : Bool) : Prop :=
  ∀ i, i < s.cfg.slotCount → wantedSrc hsr poolEx i = .ex → (slotEntry s.slots i).src ≠ .ex → exBank s.cfg i < 256

/-- The bank table after a change of HSR or POOL_SEL: slots that have the wanted SRC keep their entry (R248). -/
def pagedSlots (s : State) (hsr : BitVec 8) (poolEx : Bool) : List Slot :=
  (List.range s.cfg.slotCount).map fun i =>
    if (slotEntry s.slots i).src = wantedSrc hsr poolEx i then slotEntry s.slots i
    else wantedEntry s.cfg s.paging i (wantedSrc hsr poolEx i)

/-- The state after a write of the PAGED latch, the lock not considered (R251). -/
def State.latched (v : Byte) (s : State) : State :=
  { s with
    paging := v.setWidth 6
    slots := (s.slots.set 0 ⟨.rom, .home, if v.getLsbD 4 then 1 else 0, false⟩).set 3
      ⟨.ram, .home, v &&& 7, v.getLsbD 0⟩ }

/-- The state after a write of MODE on SCLD (R349, R375). -/
def State.modeWritten (v : Byte) (s : State) : State :=
  { s with mode := v, slots := pagedSlots s s.hsr (v.getLsbD 7) }

/-- The state after a write of HSR on SCLD (R350, R376). -/
def State.hsrWritten (v : Byte) (s : State) : State :=
  { s with hsr := v, slots := pagedSlots s v (s.mode.getLsbD 7) }

/-- The state after MAP_PAGED's writes, before its `note` (R252). -/
def State.pagedMapped (pool : Bool) (mask : BitVec 8) (s : State) : State :=
  { s with hsr := mask, mode := s.mode &&& 0x7F ||| (if pool then 0x80 else 0), slots := pagedSlots s mask pool }

/-- The entry MAP_ROM_BANK puts into a slot (R253). -/
def fixedRom (bank : BitVec 8) : Slot := ⟨.rom, .fixed, bank, false⟩

/-- The entry MAP_RAM_BANK puts into a slot, CONT by R240 (R254). -/
def fixedRam (v : Variant) (bank : BitVec 8) : Slot :=
  ⟨.ram, .fixed, bank, match v with
    | .base => decide (bank.toNat = 0)
    | .paged => bank.getLsbD 0
    | .scld => decide (bank.toNat < 2)⟩

/-- The registers after a soft reset (R53). -/
def State.softCleared (s : State) : State :=
  { s with border := 0, earmic := 0, mode := if s.cfg.variant = .scld then s.mode &&& 0x80 else s.mode }

/-- The registers and the table after a hard reset (R52, R54). -/
def State.hardCleared (s : State) : State :=
  { s with border := 0, earmic := 0, paging := 0, mode := 0, hsr := 0,
           slots := (List.range s.cfg.slotCount).map (homeEntry s.cfg 0) }

/-- RESET's outside calls made and answered (R200, R338), with `rest` and `drest` left to be said. -/
def State.resetTold (hard : Bool) (rest : List CpuEvent) (drest : List DevEvent) (s : State) : State :=
  { s with calls := toldDevices (.onReset s.tsc) s ++ .cpuReset hard :: s.calls, cpuIn := rest, devIn := drest }

/-- The ULA's port decode (R134). -/
def ulaPort (v : Variant) (p : Addr) : Bool :=
  match v with
  | .base => decide (p.toNat % 2 = 0)
  | .paged => decide (p.toNat % 2 = 0)
  | .scld => decide (p.toNat % 256 = 0xFE)

/-- The PAGING latch's port decode, bits 15 and 1 both 0 (R134). -/
def pagingPort (v : Variant) (p : Addr) : Bool :=
  decide (v = .paged) && decide (p.toNat < 0x8000) && decide (p.toNat / 2 % 2 = 0)

/-- The MODE and HSR ports' decodes (R134). -/
def scldPort (v : Variant) (low : Nat) (p : Addr) : Bool := decide (v = .scld) && decide (p.toNat % 256 = low)

/-- Some chipset register decodes a write of the port (R345). -/
def chipsetPort (v : Variant) (p : Addr) : Bool :=
  ulaPort v p || pagingPort v p || scldPort v 0xFF p || scldPort v 0xF4 p

/-- The chipset registers after a port write, before its `note` (R345 to R350). -/
def State.portWritten (p : Addr) (v : Byte) (s : State) : State :=
  let u := if ulaPort s.cfg.variant p then { s with border := v.setWidth 3, earmic := (v >>> 3).setWidth 2 } else s
  let l := if pagingPort s.cfg.variant p && !s.paging.getLsbD 5 then u.latched v else u
  if scldPort s.cfg.variant 0xFF p then l.modeWritten v
  else if scldPort s.cfg.variant 0xF4 p then l.hsrWritten v
  else l

/-- A port write maps no extension-ROM bank beyond BANK's 8 bits (R42, R349, R350). -/
abbrev State.PortBanksFit (s : State) (p : Addr) (v : Byte) : Prop :=
  (scldPort s.cfg.variant 0xFF p = true → s.ExBanksFit s.hsr (v.getLsbD 7)) ∧
    (scldPort s.cfg.variant 0xF4 p = true → s.ExBanksFit v (s.mode.getLsbD 7))

/-- `DELAY(ts)` where the access is contended, else no delay (R257). -/
def memDelay (s : State) (a : Addr) (ts : Stamp) : Nat :=
  if (slotEntry s.slots (a.toNat / s.cfg.slotSize)).cont then delay s.cfg ts.toNat else 0

/-- The delays an I/O cycle meets: none, one, two or four, by the contention of the port taken as a memory address and the
ULA decode; on SCLD the OPEN function (R258). -/
def ioDelay (s : State) (p : Addr) (ts : Stamp) : Nat :=
  let d := delay s.cfg
  let t1 := ts.toNat + d ts.toNat + 1
  let t2 := t1 + d t1 + 1
  let t3 := t2 + d t2 + 1
  if s.cfg.variant = .scld then Config.scldIoWait s.cfg.images p ts s.slots
  else if (slotEntry s.slots (p.toNat / s.cfg.slotSize)).cont then
    (if p.toNat % 2 = 0 then d ts.toNat + d t1 else d ts.toNat + d t1 + d t2 + d t3)
  else if p.toNat % 2 = 0 then d (ts.toNat + 1) else 0

/-- A bus cycle at `ts` that raises `b` and answers zeros (R412). -/
def State.busFaulted (ts : Stamp) (b : FaultBit) (s : State) : State :=
  State.withFault b { s with lastBusTs := ts, busUsed := true, busReply := ⟨0, false, 0⟩ }

/-- A bus cycle that waits `d` cycles ends in `done` with WAIT, or in `failed` with CONFIG where the 32 bits of WAIT do not hold
`d` (R12, R118; log entry 19). -/
def waited (ts : Stamp) (d : Nat) (failed : State) (done : BitVec 32 → State) : State :=
  if d < 2 ^ 32 then done (BitVec.ofNat 32 d) else failed.busFaulted ts .config

/-- A bus cycle at `ts` that left the block in `s` and answers `v` with the wait `w`, which counts among the waits the CPU was
given (R118, R459). -/
def State.busReplied (ts : Stamp) (v : Byte) (w : BitVec 32) (s : State) : State :=
  { s with lastBusTs := ts, busUsed := true, waitsGiven := s.waitsGiven + w.toNat, busReply := ⟨w, false, v⟩ }

/-- The end of a memory cycle at `ts` that left the block in `s` and answers `v` (R118, R257). -/
def State.memReplied (ts : Stamp) (d : Nat) (v : Byte) (s : State) : State := waited ts d s fun w => s.busReplied ts v w

/-- Device `k` is the first of the chain that claims the port (R333 to R335). -/
def FirstClaim (s : State) (p : Addr) (d : Dir) (k : Nat) (x : Device) : Prop :=
  s.dev[k]? = some x ∧ agentClaims x.agent p d = true ∧
    ∀ j y, j < k → s.dev[j]? = some y → agentClaims y.agent p d = false

/-- No device claims the port. -/
def NoClaim (s : State) (p : Addr) (d : Dir) : Prop := ∀ x ∈ s.dev, agentClaims x.agent p d = false

/-- A truth value as a bit. -/
def bit (b : Bool) : Nat := if b then 1 else 0

/-- The sub-log of a number, as a list position (R133). -/
def subLogAt (s : State) (n : Nat) : Option (Nat × SubLog) :=
  [(0, s.logs.border), (1, s.logs.mode), (2, s.logs.shadow), (3, s.logs.source)][n]?

/-- A bank-table entry as the number R126 spells. -/
def entryNumber (e : Slot) : Nat :=
  0x8000 * bit e.cont
    + 0x2000 * (match e.src with | .home => 0 | .ex => 1 | .dock => 2 | .fixed => 3)
    + 0x400 * (match e.kind with | .rom => 0 | .ram => 1 | .dock => 2 | .unpopulated => 3)
    + e.bank.toNat

/-- CTRL.STATE's number (R26). -/
def ctrlNumber : CtrlState → Nat
  | .running => 0
  | .atFrameBoundary => 1
  | .resetting => 2
  | .servicingNmi => 3
  | .singleStepping => 4
  | .faulted => 7

/-- RESULT's number (R125). -/
def resultNumber : Result → Nat
  | .ok => 0
  | .brk => 1
  | .notFound => 2
  | .illegal => 3
  | .restoreMismatch => 4
  | .faulted => 5

/-- The register map (R120) on a state: each number with what RDREG reads there, none where it is ILLEGAL. With L or N 0,
in FAULTED only, what they divide is free (log entry 28). -/
def registerMap (s : State) (idx : Nat) : List (Nat × Option Nat) :=
  let int := (if s.cfg.n = 0 then Config.intUndivided s.tsc else decide (s.tsc.toNat % s.cfg.n < s.cfg.intLength))
    && !(decide (s.cfg.variant = .scld) && s.mode.getLsbD 6)
  [(0x00, some s.tsc.toNat), (0x01, some s.frames.toNat), (0x02, some s.cfg.n), (0x03, some s.cfg.l),
   (0x04, some (if s.cfg.l = 0 then (Config.hposUndivided s.tsc).toNat else s.tsc.toNat % s.cfg.l)),
   (0x05, some (if s.cfg.l = 0 then (Config.vposUndivided s.tsc).toNat else s.tsc.toNat / s.cfg.l)),
   (0x06, some (match s.cfg.variant with | .base => 0 | .paged => 1 | .scld => 2)),
   (0x07, some (ctrlNumber s.ctrl)),
   (0x08, some (bit (decide (s.cfg.n ≤ s.tsc.toNat)) + 2 * bit int + 4 * bit s.nmiClaimed + 8 * bit s.nmiAccepted
     + 16 * bit s.refused)),
   (0x09, some (resultNumber s.result)), (0x0A, some s.fault.toNat)]
  ++
  [(0x10, some s.border.toNat), (0x11, some s.earmic.toNat),
   (0x12, if s.cfg.variant = .paged then some s.paging.toNat else none),
   (0x13, if s.cfg.variant = .scld then some s.mode.toNat else none),
   (0x14, if s.cfg.variant = .scld then some s.hsr.toNat else none),
   (0x15, some (((List.range 8).map fun i =>
     2 ^ i * bit (decide (i < s.cfg.slotCount) && (slotEntry s.slots i).cont)).sum)),
   (0x16, some (if s.cfg.variant = .paged ∧ (slotEntry s.slots 3).kind = .ram ∧ (slotEntry s.slots 3).bank = 5 then 2
     else if s.cfg.variant = .paged ∧ (slotEntry s.slots 3).kind = .ram ∧ (slotEntry s.slots 3).bank = 7 then 3
     else 0)),
   (0x17, some (match s.cfg.variant with
     | .base => 0
     | .paged => bit (s.paging.getLsbD 3)
     | .scld => bit (decide (s.mode.toNat % 8 = 1)))),
   (0x18, some (if s.cfg.variant = .scld then bit (s.mode.getLsbD 2) else 0))]
  ++
  [(0x20, if idx < s.cfg.slotCount then some (entryNumber (slotEntry s.slots idx)) else none),
   (0x21, some s.cfg.slotCount),
   (0x30, (subLogAt s idx).map fun p => p.2.entries.length),
   (0x31, (subLogAt s (idx / 0x1000)).bind fun p => p.2.entries[idx % 0x1000]?.map fun e =>
     2 ^ 32 * e.ts.toNat + 2 ^ 28 * p.1 + e.data.toNat),
   (0x32, (subLogAt s idx).map fun p => p.2.init.toNat),
   (0x40, some s.dev.length), (0x41, s.dev[idx]?.map fun d => d.tag.toNat), (0x42, s.dev[idx]?.map fun d => d.depth.toNat)]

/-- The width of a numbered register (R120). -/
def registerWidth (reg : Nat) : Nat :=
  if reg ∈ [0x01, 0x31] then 64
  else if reg ∈ [0x00, 0x02, 0x03, 0x04, 0x05] then 32
  else if reg ∈ [0x20, 0x30, 0x32, 0x41] then 16
  else 8

/-- The little-endian number of `n` bytes at offset `i` (R76). -/
def numberAt (b : List Byte) (i n : Nat) : Nat := leNat ((b.drop i).take n)

/-- Whether the 16 bits of a saved bank-table entry are accepted (R126, R380). -/
def SavedEntryOk (c : Cfg) (w : Nat) : Prop :=
  w / 0x100 % 4 = 0 ∧ w / 0x400 % 8 ≤ 3 ∧
    w % 0x100 < (match w / 0x400 % 8 with | 0 => c.romBanks | 1 => c.ramBanks | 2 => c.dockBanks | _ => 1) ∧
    (w / 0x400 % 8 = 2 → c.variant = .scld)

/-- The checks of RESTORE that need no agent (R380). -/
def BlobFits (c : Cfg) (b : List Byte) : Prop :=
  24 + 2 * c.slotCount + 12 ≤ b.length ∧
  numberAt b 0 1 = 1 ∧ numberAt b 3 1 = 0 ∧ numberAt b 21 3 = 0 ∧
  numberAt b 1 1 = (match c.variant with | .base => 0 | .paged => 1 | .scld => 2) ∧
  numberAt b 2 1 = c.slotCount ∧
  numberAt b 4 4 < 2 * c.n ∧ numberAt b 16 1 ≤ 7 ∧ numberAt b 17 1 ≤ 3 ∧
  numberAt b 18 1 ≤ 0x3F ∧ (c.variant ≠ .paged → numberAt b 18 1 = 0) ∧
  (c.variant ≠ .scld → numberAt b 19 1 = 0 ∧ numberAt b 20 1 = 0) ∧
  (∀ i, i < c.slotCount → SavedEntryOk c (numberAt b (24 + 2 * i) 2)) ∧
  numberAt b (24 + 2 * c.slotCount) 4 = c.ramBanks * c.slotSize ∧
  numberAt b (28 + 2 * c.slotCount + c.ramBanks * c.slotSize) 4 = 0 ∧
  b.length = 36 + 2 * c.slotCount + c.ramBanks * c.slotSize
    + numberAt b (32 + 2 * c.slotCount + c.ramBanks * c.slotSize) 4

/-- A format-H word that spells a command, field by field from R112. -/
def HostWordSpelled (w : HostWord) : Prop :=
  let opc := w.toNat / 2 ^ 24
  let sub := w.toNat / 2 ^ 16 % 256
  let arg := w.toNat % 65536
  (opc ∈ [0x01, 0x02, 0x05, 0x0E, 0x0F] ∧ sub = 0 ∧ arg = 0) ∨ (opc ∈ [0x03, 0x04] ∧ sub < 2 ∧ arg = 0) ∨
  (opc = 0x06 ∧ sub < 2 ∧ arg < 256) ∨ (opc ∈ [0x07, 0x08, 0x0A] ∧ arg < 256) ∨ opc = 0x09 ∨
  (opc = 0x0B ∧ arg ≠ 0) ∨ (opc ∈ [0x0C, 0x0D] ∧ sub = 0) ∨ (opc = 0x10 ∧ arg = 0)

/-- A format-B word that spells a bus cycle, field by field from R115 to R117. -/
def BusWordSpelled (w : BusWord) : Prop :=
  let kind := w.toNat / 2 ^ 60
  let data := w.toNat / 2 ^ 48 % 256
  let addr := w.toNat / 2 ^ 32 % 65536
  w.toNat / 2 ^ 56 % 16 = 0 ∧
    (kind ∈ [0x3, 0x5] ∨ (kind ∈ [0x1, 0x2, 0x4, 0x6, 0x8] ∧ data = 0) ∨ (kind = 0x7 ∧ data = 0 ∧ addr = 0))

/-- The timestamp a bus cycle carries (R115). -/
def busStamp : Instr → Option Stamp
  | .fetch _ ts => some ts
  | .memRead _ ts => some ts
  | .memWrite _ _ ts => some ts
  | .ioRead _ ts => some ts
  | .ioWrite _ _ ts => some ts
  | .contend _ ts => some ts
  | .intSample ts => some ts
  | .intAck _ ts => some ts
  | .runFrame => none
  | .ensureFrame => none
  | .step _ => none
  | .reset _ => none
  | .nmi => none
  | .mapPaged _ _ => none
  | .mapRomBank _ _ => none
  | .mapRamBank _ _ => none
  | .rdreg _ _ => none
  | .wrreg _ _ => none
  | .attach _ _ => none
  | .detach _ => none
  | .find _ => none
  | .save => none
  | .restore => none
  | .swapVariant _ => none

end Sys2Proof.Machine
end

