-- ==== Sys2Proof/Certificates/Slice0/Obligations.lean ====
section
/-! DEFINITION. The statements about the machine, each from the numbered rules of the spec. -/

open Sys2Proof Sys2Proof.Machine

/-! Power-on, invariants, and the sticky states. -/

/-- R51, R10: what construction leaves, every row of the table; an invalid record gives the same state, FAULTED with CONFIG.
The RAM is one free draw (log entry 5); validity has the conditions of log entries 22 and 23 too; STEP_START, LAST_BUS_TS and
VALUE are not named. -/
def Obligations.PowerOnState : Prop := ∀ c : Cfg,
  let s := State.powerOn c
  s.cfg = c ∧ s.tsc = 0 ∧ s.frames = 0 ∧ s.busy = false ∧ s.nmiClaimed = false ∧ s.nmiAccepted = false ∧
  s.refused = false ∧ s.result = .ok ∧ s.border = 0 ∧ s.earmic = 0 ∧ s.paging = 0 ∧ s.mode = 0 ∧ s.hsr = 0 ∧
  (c.valid = true → s.slots = (List.range c.slotCount).map (homeEntry c 0)) ∧
  (∀ id, logOf s.logs id = ⟨eff s id, eff s id, []⟩) ∧ s.lastLogTs = 0 ∧ s.dev = [] ∧
  (∀ a, ramByte s a = Config.ramInit 0 a) ∧
  (c.valid = true → s.ctrl = .running ∧ s.fault = 0) ∧ (c.valid = false → s.ctrl = .faulted ∧ s.fault = 1)

/-- The invariant holds at State.reset, the instance log entry 4 chooses. -/
def Obligations.ResetInv : Prop := Inv State.reset

/-- R10, R51: the invariant holds after every construction with a valid record (log entries 22 and 23). -/
def Obligations.PowerOnInv : Prop := ∀ c : Cfg, c.valid = true → Inv (State.powerOn c)

/-- R23, R27, R28, R42 to R49, R165, R172, R299, R413, R420: every step keeps the invariant of the machine. -/
def Obligations.StepKeepsInv : Prop := ∀ s t : State, Inv s → step s = .next t → Inv t

/-- R413, R420: at most one FAULT bit is ever set, and one exactly in FAULTED; every step and every command keeps it. -/
def Obligations.FaultOneBit : Prop :=
  (∀ s t : State, FaultInv s → step s = .next t → FaultInv t) ∧
  ∀ (i : Instr) (s t : State), FaultInv s → exec i s = .next t → FaultInv t

/-- R30, R32, R416: no step clears REFUSED, SWAP_VARIANT included, and none clears a bit of FAULT. The premise rules out a
FAULT bit outside FAULTED, which no run reaches. -/
def Obligations.StickyBits : Prop := ∀ s t : State, FaultInv s → step s = .next t →
  (s.refused = true → t.refused = true) ∧ ∀ b, s.fault.getLsbD b = true → t.fault.getLsbD b = true

/-- R191, R413: in FAULTED every command but RDREG replies FAULTED and changes nothing; no step leaves FAULTED or moves the
clock, the registers, the table, the log, the registry, the RAM or FAULT. -/
def Obligations.FaultedTerminal : Prop := ∀ s : State, s.ctrl = .faulted →
  (∀ i : Instr, i.channel = .host → (∀ r x, i ≠ .rdreg r x) → s.busy = false →
    exec i s = .next { s with result := .faulted, value := 0 }) ∧
  ∀ t, step s = .next t →
    t.ctrl = .faulted ∧ t.fault = s.fault ∧ t.cfg = s.cfg ∧ t.tsc = s.tsc ∧ t.frames = s.frames ∧ t.border = s.border ∧
    t.earmic = s.earmic ∧ t.paging = s.paging ∧ t.mode = s.mode ∧ t.hsr = s.hsr ∧ t.slots = s.slots ∧ t.logs = s.logs ∧
    t.lastLogTs = s.lastLogTs ∧ t.dev = s.dev ∧ t.ram = s.ram ∧ t.ramGen = s.ramGen

/-! Encoding. -/

/-- R111, R112, R115, R116, R76: the word of a well-formed operation, as a word and as bytes, decodes to the operation. -/
def Obligations.DecodeEncode : Prop := ∀ i : Instr, i.wellFormed = true →
  decodeWord (encode i) = .ok i ∧ decode (wordBytes (encode i)) = .ok i

/-- R110, R113, R117: a word that decodes is the word of the operation it decodes to, and that operation is well formed. -/
def Obligations.EncodeDecode : Prop := ∀ (w : Word) (i : Instr), decodeWord w = .ok i → encode i = w ∧ i.wellFormed = true

/-- R113: exactly the words of R112 spell commands; any other word replies ILLEGAL, sets REFUSED and changes nothing else. -/
def Obligations.HostWords : Prop := ∀ w : HostWord,
  ((∃ i, decodeHost w = .ok i) ↔ HostWordSpelled w) ∧
  (¬ HostWordSpelled w → ∀ (s : State) (p : Payload) (rest : List HostInput), s.pend = .idle → s.Ready →
    s.hostIn = ⟨w, p⟩ :: rest →
    step s = .next { s with hostIn := rest, payload := p, refused := true, result := .illegal, value := 0 })

/-- R117: exactly the words of R116 spell bus cycles; any other word faults the instance with CPU_FAULT, its timestamp
unchecked, and answers zeros. -/
def Obligations.BusWords : Prop := ∀ w : BusWord,
  ((∃ i, decodeBus w = .ok i) ↔ BusWordSpelled w) ∧
  (¬ BusWordSpelled w → ∀ (s : State) (rest : List CpuEvent), s.Serving → s.cpuIn = .bus w :: rest →
    step s = .next (State.withFault .cpuFault { s with cpuIn := rest, busReply := ⟨0, false, 0⟩ }))

/-- R112, R116 and the words of 95_test_vectors.md: words written out from the spec decode to what they stand for. -/
def Obligations.SampleWords : Prop :=
  decodeHost 0x03010000 = .ok (.step true) ∧ decodeHost 0x0702000C = .ok (.mapRomBank 2 12) ∧
  decodeHost 0x0601000F = .ok (.mapPaged true 0x0F) ∧ decodeHost 0x09312001 = .ok (.rdreg 0x31 0x2001) ∧
  decodeHost 0x0BFF0007 = .ok (.attach 0xFF 7) ∧ decodeHost 0x10010000 = .ok (.swapVariant 1) ∧
  decodeBus 0x10008000000114F4 = .ok (.fetch 0x8000 70900) ∧ decodeBus 0x30AAC00000000010 = .ok (.memWrite 0xAA 0xC000 16) ∧
  decodeBus 0x500F7FFD00000008 = .ok (.ioWrite 0x0F 0x7FFD 8) ∧ decodeBus 0x800000FF00000004 = .ok (.intAck 0xFF 4)

/-- R17, R110, R191: with no command active a step runs the host's next word, inside a CPU call it runs the bus word issued;
with nothing said by the agent whose turn it is, nothing changes (log entry 1). -/
def Obligations.StepRuns : Prop := ∀ s : State,
  (∀ w p rest i, s.pend = .idle → s.hostIn = ⟨w, p⟩ :: rest → decodeHost w = .ok i →
    step s = exec i { s with hostIn := rest, payload := p }) ∧
  (∀ c w rest i, s.pend = .cpu c → s.cpuIn = .bus w :: rest → decodeBus w = .ok i →
    step s = exec i { s with cpuIn := rest }) ∧
  (s.pend = .idle → s.hostIn = [] → step s = .next s) ∧
  (∀ c, s.pend = .cpu c → s.cpuIn = [] → step s = .next s) ∧
  (∀ c d w, s.pend = .io c d w → s.devIn = [] → step s = .next s) ∧
  ∀ k n, s.pend = .notify k n → s.devIn = [] → step s = .next s

/-! The frame clock. -/

/-- R166, R196, R337, R339: ENSURE_FRAME does nothing within the frame; at frame-over every device is told in order with the
TSC before the wrap, then TSC loses N, FRAMES counts one and the log restarts. -/
def Obligations.EnsureFrame : Prop := ∀ s : State, s.Ready →
  (s.InFrame → exec .ensureFrame s = .next (s.replied .ok 0)) ∧
  ∀ replies rest, s.cfg.n ≤ s.tsc.toNat → s.tsc.toNat < 2 * s.cfg.n → replies.length = s.dev.length →
    s.devIn = deviceReturns replies ++ rest → exec .ensureFrame s = .next ((s.newFrame rest).replied .ok 0)

/-- R168: after ENSURE_FRAME the frame is in progress and a second ENSURE_FRAME changes nothing. -/
def Obligations.EnsureIdempotent : Prop := ∀ s t : State, s.tsc.toNat < 2 * s.cfg.n →
  exec .ensureFrame s = .next t → t.pend = .idle → t.ctrl ≠ .faulted → t.InFrame ∧ exec .ensureFrame t = .next t

/-- R462, R198: every command that begins with `ensure()`, issued at frame-over, first performs the frame-boundary transition
and then acts as in the new frame. -/
def Obligations.FrameFirst : Prop := ∀ (s : State) (replies : List (Byte × Bool)) (rest : List DevEvent),
  s.Ready → s.cfg.n ≤ s.tsc.toNat → s.tsc.toNat < 2 * s.cfg.n → replies.length = s.dev.length →
  s.devIn = deviceReturns replies ++ rest →
  (∀ i ∈ [Instr.runFrame, .ensureFrame, .nmi], exec i s = exec i (s.newFrame rest)) ∧
  (∀ d, exec (.step d) s = exec (.step d) (s.newFrame rest)) ∧
  (∀ h, exec (.reset h) s = exec (.reset h) (s.newFrame rest)) ∧
  (∀ p m, s.cfg.variant = .scld → exec (.mapPaged p m) s = exec (.mapPaged p m) (s.newFrame rest)) ∧
  (∀ i b, exec (.mapRomBank i b) s = exec (.mapRomBank i b) (s.newFrame rest)) ∧
  (∀ i b, exec (.mapRamBank i b) s = exec (.mapRamBank i b) (s.newFrame rest)) ∧
  (∀ v, exec (.wrreg 0x10 v) s = exec (.wrreg 0x10 v) (s.newFrame rest)) ∧
  (∀ v, s.cfg.variant = .paged → exec (.wrreg 0x12 v) s = exec (.wrreg 0x12 v) (s.newFrame rest)) ∧
  ∀ v, s.cfg.variant = .scld →
    exec (.wrreg 0x13 v) s = exec (.wrreg 0x13 v) (s.newFrame rest) ∧
    exec (.wrreg 0x14 v) s = exec (.wrreg 0x14 v) (s.newFrame rest)

/-- R165, R24: no operation but RESTORE and SWAP_VARIANT, and no step but theirs, moves TSC back within a frame; what ends a
frame counts it once and takes off N at most. -/
def Obligations.TscMonotonic : Prop := ∀ s t : State, Inv s →
  (∀ i : Instr, i ≠ .restore → (∀ v, i ≠ .swapVariant v) → exec i s = .next t → ClockForward s t) ∧
  (¬ s.ReplacesClock → step s = .next t → ClockForward s t)

/-! The execution control. -/

/-- R164, R192, R199: STEP with a CPU that issues no bus word and returns OK or BREAK with 1 to N cycles adds them. -/
def Obligations.StepCompletes : Prop := ∀ (s : State) (dbg : Bool) (r : CpuReply) (rest : List CpuEvent),
  s.Ready → s.InFrame → s.cpuIn = .ret r :: rest → r.outcome.toNat < 2 → 1 ≤ r.cycles.toNat →
  r.cycles.toNat ≤ s.cfg.n →
  exec (.step dbg) s = .next (State.replied (if r.outcome = 1 then .brk else .ok) 0
    { s with tsc := s.tsc + r.cycles, stepStart := s.tsc, lastBusTs := s.tsc, busUsed := false, waitsGiven := 0,
             calls := .cpuStep s.tsc dbg :: s.calls, cpuIn := rest })

/-- R164, R192, R195, R197, R199: the return of the CPU from a step's call, after any bus words, commits the step: STEP ends
with OK or BREAK; RUN_FRAME, BREAK or not, ends at the frame boundary and begins the next step before it. CYCLES are no less than
the waits given (R459, log entry 32). -/
def Obligations.StepReturnCommits : Prop := ∀ (s : State) (single : Bool) (r : CpuReply) (rest : List CpuEvent),
  s.pend = .cpu (.step single) → s.ctrl ≠ .faulted → s.cpuIn = .ret r :: rest → r.outcome.toNat < 2 →
  s.lastBusTs.toNat ≤ s.stepStart.toNat + r.cycles.toNat → 1 ≤ r.cycles.toNat → r.cycles.toNat ≤ s.cfg.n →
  s.waitsGiven ≤ r.cycles.toNat →
  let u := { s with tsc := s.tsc + r.cycles, cpuIn := rest }
  step s = .next
    (if single then u.replied (if r.outcome = 1 then .brk else .ok) 0
     else if s.cfg.n ≤ u.tsc.toNat then u.replied .ok 0
     else { u with stepStart := u.tsc, lastBusTs := u.tsc, busUsed := false, waitsGiven := 0,
                   calls := .cpuStep u.tsc false :: s.calls })

/-- R164, R192, R420, R459: a step's return that breaks a CPU duty faults, checked in this order, and leaves TSC. That CYCLES
less than the waits given are TS_ORDER, checked last, is the model's reading of R459 and D26 (log entry 32). -/
def Obligations.StepReturnFaults : Prop := ∀ (s : State) (b : Bool) (r : CpuReply) (rest : List CpuEvent),
  s.pend = .cpu (.step b) → s.ctrl ≠ .faulted → s.cpuIn = .ret r :: rest →
  let stop := fun f => step s = .next (State.stopped f { s with cpuIn := rest })
  if 2 ≤ r.outcome.toNat then stop .cpuFault
  else if s.stepStart.toNat + r.cycles.toNat < s.lastBusTs.toNat then stop .tsOrder
  else if r.cycles.toNat = 0 then stop .zeroStep
  else if s.cfg.n < r.cycles.toNat then stop .tscOverflow
  else r.cycles.toNat < s.waitsGiven → stop .tsOrder

/-- R192, R195, R197: RUN_FRAME calls the CPU again and again, BREAK or not, until the sum of the cycles passes the frame
boundary, and ends there. -/
def Obligations.RunFrameScript : Prop := ∀ (s : State) (rs : List CpuReply) (rest : List CpuEvent),
  let start := fun k => s.tsc.toNat + ((rs.take k).map fun r => r.cycles.toNat).sum
  s.Ready → s.InFrame → s.cfg.n < 2 ^ 31 → s.cpuIn = rs.map CpuEvent.ret ++ rest →
  (∀ r ∈ rs, r.outcome.toNat < 2 ∧ 1 ≤ r.cycles.toNat ∧ r.cycles.toNat ≤ s.cfg.n) →
  (∀ k, k < rs.length → start k < s.cfg.n) → s.cfg.n ≤ start rs.length →
  exec .runFrame s = .next (State.replied .ok 0
    { s with tsc := BitVec.ofNat 32 (start rs.length),
             stepStart := BitVec.ofNat 32 (start (rs.length - 1)), lastBusTs := BitVec.ofNat 32 (start (rs.length - 1)),
             busUsed := false, waitsGiven := 0,
             calls := (List.range rs.length).reverse.map (fun k => .cpuStep (BitVec.ofNat 32 (start k)) false) ++ s.calls,
             cpuIn := rest })

/-- R197, R209: RUN_FRAME returns only at a full frame boundary, whatever the CPU and the devices do, unless it faulted. -/
def Obligations.RunFrameBoundary : Prop := ∀ s t : State, Inv s → s.busy = false → exec .runFrame s = .next t →
  t.pend = .idle →
  t.ctrl = .faulted ∨ (t.cfg.n ≤ t.tsc.toNat ∧ t.tsc.toNat < 2 * t.cfg.n ∧ t.ctrl = .atFrameBoundary ∧ t.result = .ok)

/-- R53, R200, R201, R338: soft RESET resets the CPU, clears BORDER, EARMIC and MODE's low bits, keeps all paging, tells
every device, and logs at TSC. -/
def Obligations.ResetSoft : Prop :=
  ∀ (s : State) (r : CpuReply) (rest : List CpuEvent) (replies : List (Byte × Bool)) (drest : List DevEvent),
  s.Ready → s.InFrame → s.cpuIn = .ret r :: rest → replies.length = s.dev.length →
  s.devIn = deviceReturns replies ++ drest →
  let u := s.softCleared.resetTold false rest drest
  u.LogRoom s.tsc → exec (.reset false) s = .next (State.replied .ok 0 (u.noted s.tsc))

/-- R52, R54, R200, R201, R338: hard RESET also clears PAGING, MODE and HSR and puts the whole table home. -/
def Obligations.ResetHard : Prop :=
  ∀ (s : State) (r : CpuReply) (rest : List CpuEvent) (replies : List (Byte × Bool)) (drest : List DevEvent),
  s.Ready → s.InFrame → s.cfg.valid = true → s.slots.length = s.cfg.slotCount → s.cpuIn = .ret r :: rest →
  replies.length = s.dev.length → s.devIn = deviceReturns replies ++ drest →
  let u := s.hardCleared.resetTold true rest drest
  u.LogRoom s.tsc → exec (.reset true) s = .next (State.replied .ok 0 (u.noted s.tsc))

/-- R202, R340: NMI asks every device, then the CPU, and reports both in STATUS; an accepted entry adds its cycles, a refused
one that reports none changes nothing else. -/
def Obligations.NmiCompletes : Prop :=
  ∀ (s : State) (r : CpuReply) (rest : List CpuEvent) (replies : List (Byte × Bool)) (drest : List DevEvent),
  s.Ready → s.InFrame → s.cpuIn = .ret r :: rest → replies.length = s.dev.length →
  s.devIn = deviceReturns replies ++ drest → r.outcome.toNat < 2 →
  (if r.accepted then 1 ≤ r.cycles.toNat ∧ r.cycles.toNat ≤ s.cfg.n else r.cycles = 0) →
  exec .nmi s = .next (State.replied (if r.outcome = 1 then .brk else .ok) 0
    { s with tsc := if r.accepted then s.tsc + r.cycles else s.tsc, stepStart := s.tsc, lastBusTs := s.tsc, busUsed := false,
             waitsGiven := 0, nmiClaimed := replies.any (fun p => p.2), nmiAccepted := r.accepted,
             calls := .cpuNmi s.tsc :: (toldDevices (.onNmi s.tsc) s ++ s.calls), cpuIn := rest, devIn := drest })

/-- R202, R420: the return of an NMI entry writes STATUS and then checks, in this order, the outcome, a refused entry's cycles
and bus words, the bus timestamps, the cycles, and, by the model's reading of R459 and D26 (log entry 32), the waits given; with
all passed it commits. -/
def Obligations.NmiReturn : Prop := ∀ (s : State) (claimed : Bool) (r : CpuReply) (rest : List CpuEvent),
  s.pend = .cpu (.nmi claimed) → s.ctrl ≠ .faulted → s.cpuIn = .ret r :: rest →
  let u := { s with cpuIn := rest, nmiClaimed := claimed, nmiAccepted := r.accepted }
  let res := if r.outcome = 1 then Result.brk else .ok
  if 2 ≤ r.outcome.toNat then step s = .next (u.stopped .cpuFault)
  else if r.accepted = false then
    if r.cycles.toNat ≠ 0 ∨ s.busUsed = true then step s = .next (u.stopped .cpuFault)
    else step s = .next (u.replied res 0)
  else if s.stepStart.toNat + r.cycles.toNat < s.lastBusTs.toNat then step s = .next (u.stopped .tsOrder)
  else if r.cycles.toNat = 0 then step s = .next (u.stopped .zeroStep)
  else if s.cfg.n < r.cycles.toNat then step s = .next (u.stopped .tscOverflow)
  else if r.cycles.toNat < s.waitsGiven then step s = .next (u.stopped .tsOrder)
  else step s = .next (State.replied res 0 { u with tsc := s.tsc + r.cycles })

/-- R28, R191, R354: a host command while one runs, whether executed or issued from a callback of the CPU or of a device,
faults the instance with REENTRANT. -/
def Obligations.ReentrantFaults : Prop := ∀ s : State, s.ctrl ≠ .faulted →
  (∀ i : Instr, i.channel = .host → s.busy = true → exec i s = .next (s.withFault .reentrant)) ∧
  (∀ c w rest, s.pend = .cpu c → s.cpuIn = .command w :: rest →
    step s = .next (State.withFault .reentrant { s with cpuIn := rest })) ∧
  (∀ c d k w rest, s.pend = .io c d k → s.devIn = .command w :: rest →
    step s = .next (State.withFault .reentrant { s with devIn := rest })) ∧
  ∀ k n w rest, s.pend = .notify k n → s.devIn = .command w :: rest →
    step s = .next (State.withFault .reentrant { s with devIn := rest })

/-! The bank selector. -/

/-- R241, R253, R254, R44, R240: MAP_ROM_BANK and MAP_RAM_BANK put the bank into the slot with SRC FIXED and CONT from the
contended predicate, and log at TSC. -/
def Obligations.MapBankWritesSlot : Prop := ∀ (s : State) (slot bank : BitVec 8), s.Ready → s.InFrame →
  slot.toNat < s.cfg.slotCount →
  let mapped := fun e => { s with slots := s.slots.set slot.toNat e }
  (bank.toNat < s.cfg.romBanks → (mapped (fixedRom bank)).LogRoom s.tsc →
    exec (.mapRomBank slot bank) s = .next (State.replied .ok 0 ((mapped (fixedRom bank)).noted s.tsc))) ∧
  (bank.toNat < s.cfg.ramBanks → (mapped (fixedRam s.cfg.variant bank)).LogRoom s.tsc →
    exec (.mapRamBank slot bank) s
      = .next (State.replied .ok 0 ((mapped (fixedRam s.cfg.variant bank)).noted s.tsc)))

/-- R241, R253, R254, R260: a slot or a bank out of range is never clamped: CONFIG, and the table is unchanged. -/
def Obligations.MapBankConfig : Prop := ∀ (s : State) (slot bank : BitVec 8), s.Ready → s.InFrame →
  (s.cfg.slotCount ≤ slot.toNat ∨ s.cfg.romBanks ≤ bank.toNat →
    exec (.mapRomBank slot bank) s = .next (s.stopped .config)) ∧
  (s.cfg.slotCount ≤ slot.toNat ∨ s.cfg.ramBanks ≤ bank.toNat →
    exec (.mapRamBank slot bank) s = .next (s.stopped .config))

/-- R246 to R248, R250, R252: MAP_PAGED writes HSR and POOL_SEL, maps each slot whose SRC differs from the wanted one, and logs
at TSC. An extension bank that BANK's 8 bits do not hold is a fault (R12), not CONFIG (R350), and then no slot changes: the
model's choice (log entry 18). -/
def Obligations.MapPagedMapsSlots : Prop := ∀ (s : State) (pool : Bool) (mask : BitVec 8), s.Ready → s.InFrame →
  s.cfg.valid = true → s.cfg.variant = .scld →
  (s.ExBanksFit mask pool → (s.pagedMapped pool mask).LogRoom s.tsc →
    exec (.mapPaged pool mask) s = .next (State.replied .ok 0 (State.noted s.tsc (s.pagedMapped pool mask)))) ∧
  (¬ s.ExBanksFit mask pool → ∃ b, b ≠ .config ∧
    exec (.mapPaged pool mask) s = .next (State.stopped b { s.pagedMapped pool mask with slots := s.slots }))

/-- R249, R252: the same MAP_PAGED issued twice is the same as issued once: the second changes and logs nothing. -/
def Obligations.MapPagedTwice : Prop := ∀ (s t : State) (pool : Bool) (mask : BitVec 8), s.tsc.toNat < 2 * s.cfg.n →
  exec (.mapPaged pool mask) s = .next t → t.ctrl ≠ .faulted → t.busy = false → exec (.mapPaged pool mask) t = .next t

/-- R256: the contention delay by line and position in the line, with the spec's BASE values. -/
def Obligations.ContentionDelay : Prop :=
  (∀ (c : Cfg) (line h : Nat), line < c.contLines → h < c.l →
    delay c (c.contStart + line * c.l + h) = if h < c.contWindow then c.contPattern.getD (h % 8) 0 else 0) ∧
  (∀ (c : Cfg) (ts : Nat), ts < c.contStart ∨ c.contStart + c.contLines * c.l ≤ ts → delay c ts = 0) ∧
  let b := Config.base 3 8 4
  delay b 14335 = 6 ∧ delay b 14340 = 1 ∧ delay b 14341 = 0 ∧ delay b 14343 = 6 ∧ delay b 14463 = 0

/-- R258: the I/O wait is the sum of the delays met (`ioDelay`); on SCLD it is the OPEN function (log entry 9). A sum that the 32
bits of WAIT do not hold is a fault (R12), CONFIG by the model's choice, and the cycle is not performed (log entry 19). -/
def Obligations.IoCycleWait : Prop := ∀ (s : State) (p : Addr) (ts : Stamp),
  (ioDelay s p ts < 2 ^ 32 → ∃ w, ioWait p ts s = some w ∧ w.toNat = ioDelay s p ts) ∧
  (2 ^ 32 ≤ ioDelay s p ts → s.Serving → s.StampOk ts →
    exec (.ioRead p ts) s = .next (s.busFaulted ts .config) ∧
    ∀ v, exec (.ioWrite v p ts) s = .next (s.busFaulted ts .config)) ∧
  ioWait 0x40FE 14335 (State.powerOn (Config.base 3 8 4)) = some 6

/-! The registers. -/

/-- R371, R76, R120 to R127: RDREG gives each register of the map, zero-extended, in FAULTED too, and leaves all else; VALUE as
bytes is little-endian; a number the map lacks, a register the variant lacks and an index out of range are ILLEGAL. A number
that its register does not hold is a fault (R12): by the model's choice CONFIG, and in FAULTED the reply FAULTED (log entry 27).
HPOS, VPOS and INT_ACTIVE with L or N 0 are log entry 28's free values, and CONT_SEL beyond eight slots is log entry 30. -/
def Obligations.RdregReadsMap : Prop := ∀ (s : State) (reg : BitVec 8) (idx : BitVec 16), s.busy = false →
  (∀ n, (reg.toNat, some n) ∈ registerMap s idx.toNat → n < 2 ^ registerWidth reg.toNat →
    exec (.rdreg reg idx) s = .next
      { s with result := .ok, value := BitVec.ofNat 64 n, pend := .idle,
               ctrl := if s.ctrl = .faulted then .faulted
                 else if s.cfg.n ≤ s.tsc.toNat then .atFrameBoundary else .running }) ∧
  (∀ n, (reg.toNat, some n) ∈ registerMap s idx.toNat → 2 ^ registerWidth reg.toNat ≤ n →
    exec (.rdreg reg idx) s = .next
      (if s.ctrl = .faulted then { s with result := .faulted, value := 0, pend := .idle } else s.stopped .config)) ∧
  ((reg.toNat, none) ∈ registerMap s idx.toNat ∨ (∀ n, (reg.toNat, n) ∉ registerMap s idx.toNat) →
    exec (.rdreg reg idx) s = .next s.refusedReply) ∧
  (valueBytes s).length = 8 ∧ ∀ i, i < 8 → (valueBytes s)[i]? = some (s.value.extractLsb' (8 * i) 8)

/-- R372, R373: WRREG BORDER writes the three low bits, leaves EARMIC, and logs at TSC. -/
def Obligations.WrregBorder : Prop := ∀ (s : State) (v : BitVec 8), s.Ready → s.InFrame →
  State.LogRoom { s with border := v.setWidth 3 } s.tsc →
  exec (.wrreg 0x10 v) s = .next (State.replied .ok 0 (State.noted s.tsc { s with border := v.setWidth 3 }))

/-- R251, R372, R374: WRREG PAGING writes the latch whatever LOCK says, remaps slots 0 and 3, and logs at TSC. -/
def Obligations.WrregPaging : Prop := ∀ (s : State) (v : BitVec 8), s.Ready → s.InFrame →
  s.cfg.valid = true → s.cfg.variant = .paged → (s.latched v).LogRoom s.tsc →
  exec (.wrreg 0x12 v) s = .next (State.replied .ok 0 (State.noted s.tsc (s.latched v)))

/-- R250, R372, R375, R376: WRREG MODE and WRREG HSR write the register, apply the mapping, and log at TSC. An extension bank
that BANK's 8 bits do not hold is a fault (R12), not CONFIG (R350), and then no slot changes: the model's choice (log
entry 18). A MODE write maps as `apply_scld` does, whatever changed (log entry 31). -/
def Obligations.WrregScld : Prop := ∀ (s : State) (v : BitVec 8), s.Ready → s.InFrame →
  s.cfg.valid = true → s.cfg.variant = .scld →
  (s.ExBanksFit s.hsr (v.getLsbD 7) → (s.modeWritten v).LogRoom s.tsc →
    exec (.wrreg 0x13 v) s = .next (State.replied .ok 0 (State.noted s.tsc (s.modeWritten v)))) ∧
  (s.ExBanksFit v (s.mode.getLsbD 7) → (s.hsrWritten v).LogRoom s.tsc →
    exec (.wrreg 0x14 v) s = .next (State.replied .ok 0 (State.noted s.tsc (s.hsrWritten v)))) ∧
  (¬ s.ExBanksFit s.hsr (v.getLsbD 7) → ∃ b, b ≠ .config ∧
    exec (.wrreg 0x13 v) s = .next (State.stopped b { s with mode := v })) ∧
  (¬ s.ExBanksFit v (s.mode.getLsbD 7) → ∃ b, b ≠ .config ∧
    exec (.wrreg 0x14 v) s = .next (State.stopped b { s with hsr := v }))

/-- R377, R114: WRREG of anything but BORDER, PAGED's PAGING and SCLD's MODE and HSR, and MAP_PAGED off SCLD, reply ILLEGAL
with no other change, at frame-over too. -/
def Obligations.IllegalNames : Prop := ∀ s : State, s.Ready →
  (∀ reg v : BitVec 8,
    ¬ (reg = 0x10 ∨ (reg = 0x12 ∧ s.cfg.variant = .paged) ∨ ((reg = 0x13 ∨ reg = 0x14) ∧ s.cfg.variant = .scld)) →
    exec (.wrreg reg v) s = .next s.refusedReply) ∧
  ∀ pool mask, s.cfg.variant ≠ .scld → exec (.mapPaged pool mask) s = .next s.refusedReply

/-! The event log. -/

/-- R292, R293: with room in the sub-logs it appends to, `note` appends to every active sub-log whose effective value differs
from LAST, all with one timestamp, and to no other. -/
def Obligations.NoteAppends : Prop := ∀ (s : State) (ts : Stamp), s.ctrl ≠ .faulted → s.LogRoom ts → note ts s = s.noted ts

/-- R298, R300: after `log_restart` every sub-log is empty with INIT and LAST the effective value, and `note` appends
nothing. -/
def Obligations.NoteNothing : Prop := ∀ (s : State) (ts : Stamp),
  (logRestart s).logs = freshLogs s ∧ (logRestart s).lastLogTs = 0 ∧ note ts (logRestart s) = logRestart s

/-- R292, R293, R304, R412: a change with no room left in its sub-log stays, with what `note` appended to the sub-logs before
it, and faults the instance with LOG_OVERFLOW: for `note` itself, for a port write, which answers zeros, and for every command
that ends in a `note`. By the model's choice a MODE write maps as `apply_scld` does, whatever changed (log entry 31), and a port
write whose wait WAIT does not hold is CONFIG (log entry 19). -/
def Obligations.LogOverflow : Prop := ∀ (s : State) (id : LogId),
  (∀ ts, s.ctrl ≠ .faulted → s.LogFull ts id → note ts s = s.overflowed ts id) ∧
  (∀ v p ts, s.Serving → s.StampOk ts → s.cfg.valid = true → chipsetPort s.cfg.variant p = true →
    s.PortBanksFit p v → (s.portWritten p v).LogFull ts id →
    exec (.ioWrite v p ts) s = .next (waited ts (ioDelay s p ts) s fun _ =>
      { (s.portWritten p v).overflowed ts id with lastBusTs := ts, busUsed := true, busReply := ⟨0, false, 0⟩ })) ∧
  let overflows := fun (i : Instr) (u : State) => s.Ready → s.InFrame → s.cfg.valid = true → u.LogFull s.tsc id →
    exec i s = .next { u.overflowed s.tsc id with busy := false, pend := .idle }
  (∀ v, overflows (.wrreg 0x10 v) { s with border := v.setWidth 3 }) ∧
  (∀ v, s.cfg.variant = .paged → overflows (.wrreg 0x12 v) (s.latched v)) ∧
  (∀ v, s.cfg.variant = .scld →
    (s.ExBanksFit s.hsr (v.getLsbD 7) → overflows (.wrreg 0x13 v) (s.modeWritten v)) ∧
    (s.ExBanksFit v (s.mode.getLsbD 7) → overflows (.wrreg 0x14 v) (s.hsrWritten v))) ∧
  (∀ pool mask, s.cfg.variant = .scld → s.ExBanksFit mask pool →
    overflows (.mapPaged pool mask) (s.pagedMapped pool mask)) ∧
  (∀ slot bank : BitVec 8, slot.toNat < s.cfg.slotCount →
    (bank.toNat < s.cfg.romBanks →
      overflows (.mapRomBank slot bank) { s with slots := s.slots.set slot.toNat (fixedRom bank) }) ∧
    (bank.toNat < s.cfg.ramBanks →
      overflows (.mapRamBank slot bank) { s with slots := s.slots.set slot.toNat (fixedRam s.cfg.variant bank) })) ∧
  ∀ (r : CpuReply) (rest : List CpuEvent) (replies : List (Byte × Bool)) (drest : List DevEvent),
    s.slots.length = s.cfg.slotCount → s.cpuIn = .ret r :: rest → replies.length = s.dev.length →
    s.devIn = deviceReturns replies ++ drest →
    overflows (.reset false) (s.softCleared.resetTold false rest drest) ∧
    overflows (.reset true) (s.hardCleared.resetTold true rest drest)

/-! The device registry. -/

/-- R341, R336: ATTACH inserts the device at the end, or after its parent's whole sub-chain one level deeper, and gives the
index. -/
def Obligations.AttachInserts : Prop := ∀ (s : State) (tag : BitVec 16) (a : Agent), s.Ready → tag ≠ 0 → s.payload = .agent a →
  s.dev.length < s.cfg.devMax →
  exec (.attach 0xFF tag) s = .next (State.replied .ok (BitVec.ofNat 64 s.dev.length)
    { s with dev := s.dev ++ [⟨tag, 0, a⟩] }) ∧
  ∀ (p : BitVec 8) (d : Device) (k : Nat), p ≠ 0xFF → s.dev[p.toNat]? = some d → p.toNat < k → k ≤ s.dev.length →
    (∀ j x, p.toNat < j → j < k → s.dev[j]? = some x → d.depth.toNat < x.depth.toNat) →
    (∀ x, s.dev[k]? = some x → x.depth.toNat ≤ d.depth.toNat) →
    exec (.attach p tag) s = .next (State.replied .ok (BitVec.ofNat 64 k)
      { s with dev := s.dev.take k ++ ⟨tag, d.depth + 1, a⟩ :: s.dev.drop k })

/-- R341, R411: ATTACH with the registry full, or under a parent that is not there, faults with CONFIG. -/
def Obligations.AttachConfig : Prop := ∀ (s : State) (p : BitVec 8) (tag : BitVec 16), s.Ready → tag ≠ 0 →
  (s.dev.length = s.cfg.devMax ∨ (p ≠ 0xFF ∧ s.dev.length ≤ p.toNat)) →
  exec (.attach p tag) s = .next (s.stopped .config)

/-- R342, R419: DETACH removes the first device of the tag with its whole sub-chain and gives their number; with none it
replies NOT_FOUND and changes nothing. -/
def Obligations.DetachRemovesSubchain : Prop := ∀ (s : State) (tag : BitVec 16), s.Ready →
  ((∀ x ∈ s.dev, x.tag ≠ tag) → exec (.detach tag) s = .next (s.replied .notFound 0)) ∧
  ∀ (k e : Nat) (d : Device), s.dev[k]? = some d → d.tag = tag → (∀ j x, j < k → s.dev[j]? = some x → x.tag ≠ tag) →
    k < e → e ≤ s.dev.length →
    (∀ j x, k < j → j < e → s.dev[j]? = some x → d.depth.toNat < x.depth.toNat) →
    (∀ x, s.dev[e]? = some x → x.depth.toNat ≤ d.depth.toNat) →
    exec (.detach tag) s = .next (State.replied .ok (BitVec.ofNat 64 (e - k))
      { s with dev := s.dev.take k ++ s.dev.drop e })

/-- R343, R344: FIND gives the index of the first device of the tag, or NOT_FOUND, and changes nothing. -/
def Obligations.FindFirstOfTag : Prop := ∀ (s : State) (tag : BitVec 16), s.Ready →
  ((∀ x ∈ s.dev, x.tag ≠ tag) → exec (.find tag) s = .next (s.replied .notFound 0)) ∧
  ∀ (k : Nat) (d : Device), s.dev[k]? = some d → d.tag = tag → (∀ j x, j < k → s.dev[j]? = some x → x.tag ≠ tag) →
    exec (.find tag) s = .next (s.replied .ok (BitVec.ofNat 64 k))

/-! Persistence and the variant swap. -/

/-- R136, R378: SAVE asks the CPU for its bytes and replies the blob of the layout, and changes nothing else. Bytes whose
number CPU_BYTES does not hold are a fault (R12), CPU_FAULT by the model's choice (log entry 29). -/
def Obligations.SaveBlobLayout : Prop := ∀ (s : State) (r : CpuReply) (rest : List CpuEvent), s.Ready → s.cfg.valid = true →
  s.cpuIn = .ret r :: rest →
  (2 ^ 32 ≤ r.blob.length →
    exec .save s = .next (State.stopped .cpuFault { s with calls := .cpuSave :: s.calls, cpuIn := rest })) ∧
  (r.blob.length < 2 ^ 32 →
    let c := s.cfg
    let at' := 28 + 2 * c.slotCount
    ∃ b : List Byte,
      exec .save s = .next (State.replied .ok 0 { s with blob := b, calls := .cpuSave :: s.calls, cpuIn := rest }) ∧
      b.length = at' + c.ramBanks * c.slotSize + 8 + r.blob.length ∧
      numberAt b 0 1 = 1 ∧ numberAt b 1 1 = (match c.variant with | .base => 0 | .paged => 1 | .scld => 2) ∧
      numberAt b 2 1 = c.slotCount ∧ numberAt b 3 1 = 0 ∧ numberAt b 4 4 = s.tsc.toNat ∧ numberAt b 8 8 = s.frames.toNat ∧
      numberAt b 16 1 = s.border.toNat ∧ numberAt b 17 1 = s.earmic.toNat ∧
      numberAt b 18 1 = (if c.variant = .paged then s.paging.toNat else 0) ∧
      numberAt b 19 1 = (if c.variant = .scld then s.mode.toNat else 0) ∧
      numberAt b 20 1 = (if c.variant = .scld then s.hsr.toNat else 0) ∧ numberAt b 21 3 = 0 ∧
      (∀ i, i < c.slotCount → numberAt b (24 + 2 * i) 2 = entryNumber (slotEntry s.slots i)) ∧
      numberAt b (24 + 2 * c.slotCount) 4 = c.ramBanks * c.slotSize ∧
      (∀ a, a < c.ramBanks * c.slotSize → b[at' + a]? = some (ramByte s a)) ∧
      numberAt b (at' + c.ramBanks * c.slotSize) 4 = 0 ∧
      numberAt b (at' + c.ramBanks * c.slotSize + 4) 4 = r.blob.length ∧
      b.drop (at' + c.ramBanks * c.slotSize + 8) = r.blob)

/-- R380 to R382: RESTORE of a blob that passes the checks and that the CPU accepts hands the CPU its part and loads every
saved value, CONT recomputed, with a fresh log; the registry and FAULT stay. -/
def Obligations.RestoreLoadsBlob : Prop := ∀ (s : State) (b : List Byte) (r1 r2 : CpuReply) (rest : List CpuEvent),
  s.Ready → s.payload = .blob b → BlobFits s.cfg b → s.cpuIn = .ret r1 :: .ret r2 :: rest → r1.accepted = true →
  let c := s.cfg
  let cpu := b.drop (36 + 2 * c.slotCount + c.ramBanks * c.slotSize)
  ∃ t : State, exec .restore s = .next (State.replied .ok 0
      { s with tsc := t.tsc, frames := t.frames, border := t.border, earmic := t.earmic, paging := t.paging,
               mode := t.mode, hsr := t.hsr, slots := t.slots, ram := t.ram, nmiClaimed := false, nmiAccepted := false,
               logs := freshLogs t, lastLogTs := 0, cpuIn := rest,
               calls := .clearRenderingCache :: .cpuRestore cpu :: .cpuCheck cpu :: s.calls }) ∧
    t.cfg = c ∧ t.ramGen = s.ramGen ∧ ramWf t.ram = true ∧
    t.tsc.toNat = numberAt b 4 4 ∧ t.frames.toNat = numberAt b 8 8 ∧ t.border.toNat = numberAt b 16 1 ∧
    t.earmic.toNat = numberAt b 17 1 ∧ t.paging.toNat = numberAt b 18 1 ∧ t.mode.toNat = numberAt b 19 1 ∧
    t.hsr.toNat = numberAt b 20 1 ∧ t.slots.length = c.slotCount ∧
    (∀ i, i < c.slotCount →
      entryNumber (slotEntry t.slots i) % 0x8000 = numberAt b (24 + 2 * i) 2 % 0x8000 ∧
      (slotEntry t.slots i).cont
        = contended c.variant (slotEntry t.slots i).kind (slotEntry t.slots i).bank.toNat) ∧
    ∀ a, a < c.ramBanks * c.slotSize → some (ramByte t a) = b[28 + 2 * c.slotCount + a]?

/-- R380, R417: a blob that fails a check of the block, or that the CPU does not accept, is RESTORE_MISMATCH and changes
nothing; a failed check of the block does not ask the CPU. -/
def Obligations.RestoreMismatch : Prop := ∀ (s : State) (b : List Byte), s.Ready → s.payload = .blob b →
  (¬ BlobFits s.cfg b → exec .restore s = .next (s.replied .restoreMismatch 0)) ∧
  ∀ (r : CpuReply) (rest : List CpuEvent), BlobFits s.cfg b → s.cpuIn = .ret r :: rest → r.accepted = false →
    exec .restore s = .next (State.replied .restoreMismatch 0
      { s with calls := .cpuCheck (b.drop (36 + 2 * s.cfg.slotCount + s.cfg.ramBanks * s.cfg.slotSize)) :: s.calls,
               cpuIn := rest })

/-- R378 to R381: a SAVE blob restored into an instance of the same record brings back the clock, the registers, the table and
every RAM byte, and the CPU gets its bytes back. -/
def Obligations.SaveRestore : Prop :=
  ∀ (s t u : State) (r r1 r2 : CpuReply) (rest rest' : List CpuEvent),
  Inv s → s.Ready → s.cpuIn = .ret r :: rest → r.blob.length < 2 ^ 32 → exec .save s = .next t →
  u.Ready → u.cfg = s.cfg → u.payload = .blob t.blob → u.cpuIn = .ret r1 :: .ret r2 :: rest' → r1.accepted = true →
  ∃ v : State, exec .restore u = .next v ∧ v.tsc = s.tsc ∧ v.frames = s.frames ∧ v.border = s.border ∧
    v.earmic = s.earmic ∧ v.paging = s.paging ∧ v.mode = s.mode ∧ v.hsr = s.hsr ∧ v.slots = s.slots ∧
    (∀ a, a < s.cfg.ramBanks * s.cfg.slotSize → ramByte v a = ramByte s a) ∧ v.logs = freshLogs s ∧
    v.dev = u.dev ∧ v.fault = u.fault ∧
    v.calls = .clearRenderingCache :: .cpuRestore r.blob :: .cpuCheck r.blob :: u.calls

/-- R383 to R386: SWAP_VARIANT gives the power-on state of the target with BORDER, REFUSED and the re-chunked RAM: every byte
copied from its logical address, every other byte one fresh draw (log entry 5). The CPU and the devices are not called, and
the replies kept beside the state stay (log entry 17). A tag that is no variant, or a record that is invalid or for another
variant, is CONFIG; a record is invalid by R10 or by the conditions of log entries 22 and 23. -/
def Obligations.SwapState : Prop := ∀ (s : State) (tag : BitVec 8) (c : Cfg), s.Ready → s.payload = .cfg c →
  let b : BitVec 16 := s.border.setWidth 16
  (tag = (match c.variant with | .base => 0 | .paged => 1 | .scld => 2) ∧ c.valid = true →
    ∃ u ram, exec (.swapVariant tag) s = .next u ∧
      u = { State.powerOn c with
            border := s.border, refused := s.refused, ram := ram, ramGen := s.draws, draws := s.draws + 1
            logs := ⟨⟨b, b, []⟩, ⟨0, 0, []⟩, ⟨0, 0, []⟩, ⟨0, 0, []⟩⟩
            blob := s.blob, busReply := s.busReply, payload := s.payload, calls := .clearRenderingCache :: s.calls
            hostIn := s.hostIn, cpuIn := s.cpuIn, devIn := s.devIn } ∧
      let e := fun a => slotEntry s.slots (a / s.cfg.slotSize)
      let e' := fun a => slotEntry u.slots (a / c.slotSize)
      let target := fun a => (e' a).bank.toNat * c.slotSize + a % c.slotSize
      (∀ a, a < 65536 → (e a).kind = .ram → (e' a).kind = .ram →
        ramByte u (target a) = ramByte s ((e a).bank.toNat * s.cfg.slotSize + a % s.cfg.slotSize)) ∧
      ∀ k, (∀ a, a < 65536 → (e a).kind = .ram → (e' a).kind = .ram → target a ≠ k) →
        ramByte u k = Config.ramInit s.draws k) ∧
  (tag ≠ (match c.variant with | .base => 0 | .paged => 1 | .scld => 2) ∨ c.valid = false →
    exec (.swapVariant tag) s = .next (s.stopped .config))

/-- R384: after SWAP_VARIANT every logical address mapped to RAM before and after reads the byte it read before. -/
def Obligations.SwapRam : Prop := ∀ (s t : State) (tag : BitVec 8) (c : Cfg), s.Ready → s.cfg.valid = true →
  s.payload = .cfg c → c.valid = true →
  tag = (match c.variant with | .base => 0 | .paged => 1 | .scld => 2) → exec (.swapVariant tag) s = .next t →
  ∀ a, a < 65536 →
    let e := slotEntry s.slots (a / s.cfg.slotSize)
    let e' := slotEntry t.slots (a / c.slotSize)
    e.kind = .ram → e'.kind = .ram →
    ramByte t (e'.bank.toNat * c.slotSize + a % c.slotSize) = ramByte s (e.bank.toNat * s.cfg.slotSize + a % s.cfg.slotSize)

/-! The bus cycles. -/

/-- R71, R78, R257, R261, R262: FETCH and MEM_READ are the same in the block: the byte of the slot's bank, or a free byte from
an unpopulated slot or an absent DOCK (log entry 6), and the contention wait; nothing else changes. A wait that WAIT does not
hold is CONFIG after the read (log entry 19). -/
def Obligations.MemReadAndFetch : Prop := ∀ (s : State) (a : Addr) (ts : Stamp), s.Serving → s.StampOk ts →
  let e := slotEntry s.slots (a.toNat / s.cfg.slotSize)
  let off := a.toNat % s.cfg.slotSize
  let d := memDelay s a ts
  exec (.fetch a ts) s = exec (.memRead a ts) s ∧
  (e.kind = .rom → exec (.memRead a ts) s = .next (s.memReplied ts d (Config.romImage s.cfg.images e.bank.toNat off))) ∧
  (e.kind = .ram → exec (.memRead a ts) s = .next (s.memReplied ts d (ramByte s (e.bank.toNat * s.cfg.slotSize + off)))) ∧
  (e.kind = .dock → s.cfg.dockPresent = true →
    exec (.memRead a ts) s = .next (s.memReplied ts d (Config.dockImage s.cfg.images e.bank.toNat off))) ∧
  (e.kind = .unpopulated ∨ (e.kind = .dock ∧ s.cfg.dockPresent = false) →
    exec (.memRead a ts) s
      = .next (State.memReplied ts d (Config.floating s.draws) { s with draws := s.draws + 1 }))

/-- R79, R81, R263: MEM_WRITE to a RAM slot writes that byte and no other; to ROM, DOCK or an unpopulated slot it is dropped;
the wait is charged either way, and nothing else changes. A wait that WAIT does not hold is CONFIG after the write (log
entry 19). -/
def Obligations.MemWriteOneByte : Prop := ∀ (s : State) (v : Byte) (a : Addr) (ts : Stamp), s.Serving → s.StampOk ts →
  let e := slotEntry s.slots (a.toNat / s.cfg.slotSize)
  let target := e.bank.toNat * s.cfg.slotSize + a.toNat % s.cfg.slotSize
  let d := memDelay s a ts
  (e.kind = .ram → ∃ ram, exec (.memWrite v a ts) s = .next (State.memReplied ts d 0 { s with ram := ram }) ∧
    ramByte { s with ram := ram } target = v ∧ ∀ b, b ≠ target → ramByte { s with ram := ram } b = ramByte s b) ∧
  (e.kind ≠ .ram → exec (.memWrite v a ts) s = .next (s.memReplied ts d 0))

/-- R80, R89: a byte written through one slot is fetched at the next cycle through any slot that maps the same bank; with a
wait that WAIT holds, as every wait of R9's patterns is (log entry 19). -/
def Obligations.WriteThenFetch : Prop := ∀ (s t u : State) (v : Byte) (a b : Addr) (ts ts' : Stamp),
  s.Serving → s.StampOk ts →
  let e := slotEntry s.slots (a.toNat / s.cfg.slotSize)
  let e' := slotEntry s.slots (b.toNat / s.cfg.slotSize)
  e.kind = .ram → e'.kind = .ram → e'.bank = e.bank → b.toNat % s.cfg.slotSize = a.toNat % s.cfg.slotSize →
  memDelay s a ts < 2 ^ 32 → memDelay s b ts' < 2 ^ 32 →
  exec (.memWrite v a ts) s = .next t → t.StampOk ts' → exec (.fetch b ts') t = .next u → u.busReply.data = v

/-- R171, R204, R205, R257, R264: CONTEND answers the wait alone (CONFIG where WAIT does not hold it, log entry 19), INT_SAMPLE
the frame interrupt line at its timestamp, INT_ACK a free byte (log entry 6); none changes anything else. -/
def Obligations.QuietCycles : Prop := ∀ (s : State) (a : Addr) (ts : Stamp), s.Serving → s.StampOk ts →
  let answer := fun r => { s with lastBusTs := ts, busUsed := true, busReply := r }
  exec (.contend a ts) s = .next (s.memReplied ts (memDelay s a ts) 0) ∧
  exec (.intSample ts) s = .next (answer ⟨0, decide (ts.toNat % s.cfg.n < s.cfg.intLength ∧
    ¬ (s.cfg.variant = .scld ∧ s.mode.getLsbD 6 = true)), 0⟩) ∧
  exec (.intAck a ts) s = .next { answer ⟨0, false, Config.floating s.draws⟩ with draws := s.draws + 1 }

/-- R134, R333, R334, R345, R347, R351, R352: IO_READ is answered by the chipset's port, else by the first device that claims
it and no other, else by a free byte, with the wait of R258; a wait that WAIT does not hold is CONFIG, and no port is read (log
entry 19). -/
def Obligations.IoReadAnswers : Prop := ∀ (s : State) (p : Addr) (ts : Stamp), s.Serving → s.StampOk ts →
  let answer := fun v w => s.busReplied ts v w
  let replies := fun done => exec (.ioRead p ts) s = .next (waited ts (ioDelay s p ts) s done)
  let readback := fun low => scldPort s.cfg.variant low p && s.cfg.scldPortReadback
  (ulaPort s.cfg.variant p = true →
    replies fun w => { answer (Config.ulaInput s.draws) w with draws := s.draws + 1 }) ∧
  (readback 0xFF = true → replies (answer s.mode)) ∧
  (readback 0xF4 = true → replies (answer s.hsr)) ∧
  (ulaPort s.cfg.variant p = false → readback 0xFF = false → readback 0xF4 = false →
    (NoClaim s p .read → replies fun w => { answer (Config.floating s.draws) w with draws := s.draws + 1 }) ∧
    ∀ k x v claim rest, FirstClaim s p .read k x → s.devIn = .ret v claim :: rest →
      replies fun w => { answer v w with calls := .dev k x.agent.id (.read p ts) :: s.calls, devIn := rest })

/-- R134, R293, R345 to R350, R353: IO_WRITE to a chipset port writes every register that decodes it, in order, logs once at
its timestamp, and is charged the wait of the table before the write; a wait that WAIT does not hold is CONFIG, and nothing is
written (log entry 19). Under a valid record its mapping never raises CONFIG (R350): an extension bank that BANK's 8 bits do
not hold is another fault (R12), and then no slot changes: the model's choice (log entry 18). A MODE write maps as `apply_scld`
does, whatever changed (log entry 31). -/
def Obligations.IoWriteChipset : Prop := ∀ (s : State) (v : Byte) (p : Addr) (ts : Stamp), s.Serving →
  s.StampOk ts → s.cfg.valid = true → chipsetPort s.cfg.variant p = true →
  let replies := fun done => exec (.ioWrite v p ts) s = .next (waited ts (ioDelay s p ts) s done)
  (s.PortBanksFit p v → (s.portWritten p v).LogRoom ts →
    replies fun w => State.busReplied ts 0 w (State.noted ts (s.portWritten p v))) ∧
  (¬ s.PortBanksFit p v → ∃ b, b ≠ .config ∧
    replies fun _ => State.busFaulted ts b { s.portWritten p v with slots := s.slots })

/-- R333, R335, R353: IO_WRITE to a port the chipset does not decode goes to the first device that claims it and no other, and
is dropped if none does; a wait that WAIT does not hold is CONFIG, and no device is called (log entry 19). -/
def Obligations.IoWriteDevice : Prop := ∀ (s : State) (v : Byte) (p : Addr) (ts : Stamp), s.Serving →
  s.StampOk ts → chipsetPort s.cfg.variant p = false →
  let served := fun w => s.busReplied ts 0 w
  let replies := fun done => exec (.ioWrite v p ts) s = .next (waited ts (ioDelay s p ts) s done)
  (NoClaim s p .write → replies served) ∧
  ∀ k x d claim rest, FirstClaim s p .write k x → s.devIn = .ret d claim :: rest →
    replies fun w => { served w with calls := .dev k x.agent.id (.write p v ts) :: s.calls, devIn := rest }

/-- R194, R200, R412: a bus word earlier than the last one, or at or beyond 2N, is not performed: TS_ORDER, and it answers zeros.
Any bus word issued in CPU.reset is CPU_FAULT, whatever its timestamp, and answers zeros. -/
def Obligations.TsOrder : Prop := ∀ (s : State) (i : Instr) (ts : Stamp), busStamp i = some ts →
  (s.Serving → (ts.toNat < s.lastBusTs.toNat ∨ 2 * s.cfg.n ≤ ts.toNat) →
    exec i s = .next (State.withFault .tsOrder { s with busUsed := true, busReply := ⟨0, false, 0⟩ })) ∧
  ∀ hard, s.ctrl ≠ .faulted → s.pend = .cpu (.reset hard) →
    exec i s = .next (State.withFault .cpuFault { s with busReply := ⟨0, false, 0⟩ })

/-- R81, R90, R194, R259, R263, R264: what no bus cycle changes, and what only MEM_WRITE (one byte) and IO_WRITE (registers,
table, log) change; a cycle counts no wait but the one it replies (log entry 32). -/
def Obligations.BusFrame : Prop := ∀ (s t : State) (i : Instr), i.channel = .bus → exec i s = .next t →
  (t.cfg = s.cfg ∧ t.tsc = s.tsc ∧ t.frames = s.frames ∧ t.dev = s.dev ∧ t.busy = s.busy ∧ t.stepStart = s.stepStart ∧
    t.nmiClaimed = s.nmiClaimed ∧ t.nmiAccepted = s.nmiAccepted ∧ t.refused = s.refused ∧ t.ramGen = s.ramGen ∧
    t.blob = s.blob ∧ t.payload = s.payload ∧ t.hostIn = s.hostIn ∧ t.cpuIn = s.cpuIn) ∧
  (t.waitsGiven = s.waitsGiven ∨ t.waitsGiven = s.waitsGiven + t.busReply.wait.toNat) ∧
  ((∀ v p ts, i ≠ .ioWrite v p ts) → t.border = s.border ∧ t.earmic = s.earmic ∧ t.paging = s.paging ∧ t.mode = s.mode ∧
    t.hsr = s.hsr ∧ t.slots = s.slots ∧ t.logs = s.logs ∧ t.lastLogTs = s.lastLogTs) ∧
  ((∀ v a ts, i ≠ .memWrite v a ts) → t.ram = s.ram) ∧
  ∀ v a ts, i = .memWrite v a ts → ∀ b,
    b ≠ (slotEntry s.slots (a.toNat / s.cfg.slotSize)).bank.toNat * s.cfg.slotSize + a.toNat % s.cfg.slotSize →
    ramByte t b = ramByte s b
end

