-- ==== Sys2Proof/Laws/State.lean ====
section
/-! SUPPORT. One lemma per field per named update of State. -/

namespace Sys2Proof.Machine

section
variable (s : State)

@[simp] theorem stopCmd_cfg : (stopCmd s).cfg = s.cfg := rfl
@[simp] theorem stopCmd_tsc : (stopCmd s).tsc = s.tsc := rfl
@[simp] theorem stopCmd_frames : (stopCmd s).frames = s.frames := rfl
@[simp] theorem stopCmd_ctrl : (stopCmd s).ctrl = s.ctrl := rfl
@[simp] theorem stopCmd_busy : (stopCmd s).busy = false := rfl
@[simp] theorem stopCmd_stepStart : (stopCmd s).stepStart = s.stepStart := rfl
@[simp] theorem stopCmd_lastBusTs : (stopCmd s).lastBusTs = s.lastBusTs := rfl
@[simp] theorem stopCmd_busUsed : (stopCmd s).busUsed = s.busUsed := rfl
@[simp] theorem stopCmd_waitsGiven : (stopCmd s).waitsGiven = s.waitsGiven := rfl
@[simp] theorem stopCmd_nmiClaimed : (stopCmd s).nmiClaimed = s.nmiClaimed := rfl
@[simp] theorem stopCmd_nmiAccepted : (stopCmd s).nmiAccepted = s.nmiAccepted := rfl
@[simp] theorem stopCmd_refused : (stopCmd s).refused = s.refused := rfl
@[simp] theorem stopCmd_result : (stopCmd s).result = s.result := rfl
@[simp] theorem stopCmd_fault : (stopCmd s).fault = s.fault := rfl
@[simp] theorem stopCmd_border : (stopCmd s).border = s.border := rfl
@[simp] theorem stopCmd_earmic : (stopCmd s).earmic = s.earmic := rfl
@[simp] theorem stopCmd_paging : (stopCmd s).paging = s.paging := rfl
@[simp] theorem stopCmd_mode : (stopCmd s).mode = s.mode := rfl
@[simp] theorem stopCmd_hsr : (stopCmd s).hsr = s.hsr := rfl
@[simp] theorem stopCmd_slots : (stopCmd s).slots = s.slots := rfl
@[simp] theorem stopCmd_logs : (stopCmd s).logs = s.logs := rfl
@[simp] theorem stopCmd_lastLogTs : (stopCmd s).lastLogTs = s.lastLogTs := rfl
@[simp] theorem stopCmd_dev : (stopCmd s).dev = s.dev := rfl
@[simp] theorem stopCmd_ram : (stopCmd s).ram = s.ram := rfl
@[simp] theorem stopCmd_ramGen : (stopCmd s).ramGen = s.ramGen := rfl
@[simp] theorem stopCmd_draws : (stopCmd s).draws = s.draws := rfl
@[simp] theorem stopCmd_value : (stopCmd s).value = s.value := rfl
@[simp] theorem stopCmd_blob : (stopCmd s).blob = s.blob := rfl
@[simp] theorem stopCmd_busReply : (stopCmd s).busReply = s.busReply := rfl
@[simp] theorem stopCmd_calls : (stopCmd s).calls = s.calls := rfl
@[simp] theorem stopCmd_payload : (stopCmd s).payload = s.payload := rfl
@[simp] theorem stopCmd_pend : (stopCmd s).pend = .idle := rfl
@[simp] theorem stopCmd_hostIn : (stopCmd s).hostIn = s.hostIn := rfl
@[simp] theorem stopCmd_cpuIn : (stopCmd s).cpuIn = s.cpuIn := rfl
@[simp] theorem stopCmd_devIn : (stopCmd s).devIn = s.devIn := rfl

end

section
variable (r : Result) (v : BitVec 64) (s : State)

@[simp] theorem finish_cfg : (finish r v s).cfg = s.cfg := rfl
@[simp] theorem finish_tsc : (finish r v s).tsc = s.tsc := rfl
@[simp] theorem finish_frames : (finish r v s).frames = s.frames := rfl
@[simp] theorem finish_ctrl : (finish r v s).ctrl = if s.ctrl = .faulted then .faulted else idleCtrl s := rfl
@[simp] theorem finish_busy : (finish r v s).busy = false := rfl
@[simp] theorem finish_stepStart : (finish r v s).stepStart = s.stepStart := rfl
@[simp] theorem finish_lastBusTs : (finish r v s).lastBusTs = s.lastBusTs := rfl
@[simp] theorem finish_busUsed : (finish r v s).busUsed = s.busUsed := rfl
@[simp] theorem finish_waitsGiven : (finish r v s).waitsGiven = s.waitsGiven := rfl
@[simp] theorem finish_nmiClaimed : (finish r v s).nmiClaimed = s.nmiClaimed := rfl
@[simp] theorem finish_nmiAccepted : (finish r v s).nmiAccepted = s.nmiAccepted := rfl
@[simp] theorem finish_refused : (finish r v s).refused = s.refused := rfl
@[simp] theorem finish_result : (finish r v s).result = r := rfl
@[simp] theorem finish_fault : (finish r v s).fault = s.fault := rfl
@[simp] theorem finish_border : (finish r v s).border = s.border := rfl
@[simp] theorem finish_earmic : (finish r v s).earmic = s.earmic := rfl
@[simp] theorem finish_paging : (finish r v s).paging = s.paging := rfl
@[simp] theorem finish_mode : (finish r v s).mode = s.mode := rfl
@[simp] theorem finish_hsr : (finish r v s).hsr = s.hsr := rfl
@[simp] theorem finish_slots : (finish r v s).slots = s.slots := rfl
@[simp] theorem finish_logs : (finish r v s).logs = s.logs := rfl
@[simp] theorem finish_lastLogTs : (finish r v s).lastLogTs = s.lastLogTs := rfl
@[simp] theorem finish_dev : (finish r v s).dev = s.dev := rfl
@[simp] theorem finish_ram : (finish r v s).ram = s.ram := rfl
@[simp] theorem finish_ramGen : (finish r v s).ramGen = s.ramGen := rfl
@[simp] theorem finish_draws : (finish r v s).draws = s.draws := rfl
@[simp] theorem finish_value : (finish r v s).value = v := rfl
@[simp] theorem finish_blob : (finish r v s).blob = s.blob := rfl
@[simp] theorem finish_busReply : (finish r v s).busReply = s.busReply := rfl
@[simp] theorem finish_calls : (finish r v s).calls = s.calls := rfl
@[simp] theorem finish_payload : (finish r v s).payload = s.payload := rfl
@[simp] theorem finish_pend : (finish r v s).pend = .idle := rfl
@[simp] theorem finish_hostIn : (finish r v s).hostIn = s.hostIn := rfl
@[simp] theorem finish_cpuIn : (finish r v s).cpuIn = s.cpuIn := rfl
@[simp] theorem finish_devIn : (finish r v s).devIn = s.devIn := rfl

end

section
variable (s : State)

@[simp] theorem refuseCmd_cfg : (refuseCmd s).cfg = s.cfg := rfl
@[simp] theorem refuseCmd_tsc : (refuseCmd s).tsc = s.tsc := rfl
@[simp] theorem refuseCmd_frames : (refuseCmd s).frames = s.frames := rfl
@[simp] theorem refuseCmd_ctrl : (refuseCmd s).ctrl = s.ctrl := rfl
@[simp] theorem refuseCmd_busy : (refuseCmd s).busy = s.busy := rfl
@[simp] theorem refuseCmd_stepStart : (refuseCmd s).stepStart = s.stepStart := rfl
@[simp] theorem refuseCmd_lastBusTs : (refuseCmd s).lastBusTs = s.lastBusTs := rfl
@[simp] theorem refuseCmd_busUsed : (refuseCmd s).busUsed = s.busUsed := rfl
@[simp] theorem refuseCmd_waitsGiven : (refuseCmd s).waitsGiven = s.waitsGiven := rfl
@[simp] theorem refuseCmd_nmiClaimed : (refuseCmd s).nmiClaimed = s.nmiClaimed := rfl
@[simp] theorem refuseCmd_nmiAccepted : (refuseCmd s).nmiAccepted = s.nmiAccepted := rfl
@[simp] theorem refuseCmd_refused : (refuseCmd s).refused = true := rfl
@[simp] theorem refuseCmd_result : (refuseCmd s).result = .illegal := rfl
@[simp] theorem refuseCmd_fault : (refuseCmd s).fault = s.fault := rfl
@[simp] theorem refuseCmd_border : (refuseCmd s).border = s.border := rfl
@[simp] theorem refuseCmd_earmic : (refuseCmd s).earmic = s.earmic := rfl
@[simp] theorem refuseCmd_paging : (refuseCmd s).paging = s.paging := rfl
@[simp] theorem refuseCmd_mode : (refuseCmd s).mode = s.mode := rfl
@[simp] theorem refuseCmd_hsr : (refuseCmd s).hsr = s.hsr := rfl
@[simp] theorem refuseCmd_slots : (refuseCmd s).slots = s.slots := rfl
@[simp] theorem refuseCmd_logs : (refuseCmd s).logs = s.logs := rfl
@[simp] theorem refuseCmd_lastLogTs : (refuseCmd s).lastLogTs = s.lastLogTs := rfl
@[simp] theorem refuseCmd_dev : (refuseCmd s).dev = s.dev := rfl
@[simp] theorem refuseCmd_ram : (refuseCmd s).ram = s.ram := rfl
@[simp] theorem refuseCmd_ramGen : (refuseCmd s).ramGen = s.ramGen := rfl
@[simp] theorem refuseCmd_draws : (refuseCmd s).draws = s.draws := rfl
@[simp] theorem refuseCmd_value : (refuseCmd s).value = 0 := rfl
@[simp] theorem refuseCmd_blob : (refuseCmd s).blob = s.blob := rfl
@[simp] theorem refuseCmd_busReply : (refuseCmd s).busReply = s.busReply := rfl
@[simp] theorem refuseCmd_calls : (refuseCmd s).calls = s.calls := rfl
@[simp] theorem refuseCmd_payload : (refuseCmd s).payload = s.payload := rfl
@[simp] theorem refuseCmd_pend : (refuseCmd s).pend = s.pend := rfl
@[simp] theorem refuseCmd_hostIn : (refuseCmd s).hostIn = s.hostIn := rfl
@[simp] theorem refuseCmd_cpuIn : (refuseCmd s).cpuIn = s.cpuIn := rfl
@[simp] theorem refuseCmd_devIn : (refuseCmd s).devIn = s.devIn := rfl

end

section
variable (s : State)

@[simp] theorem refuseFaulted_cfg : (refuseFaulted s).cfg = s.cfg := rfl
@[simp] theorem refuseFaulted_tsc : (refuseFaulted s).tsc = s.tsc := rfl
@[simp] theorem refuseFaulted_frames : (refuseFaulted s).frames = s.frames := rfl
@[simp] theorem refuseFaulted_ctrl : (refuseFaulted s).ctrl = s.ctrl := rfl
@[simp] theorem refuseFaulted_busy : (refuseFaulted s).busy = s.busy := rfl
@[simp] theorem refuseFaulted_stepStart : (refuseFaulted s).stepStart = s.stepStart := rfl
@[simp] theorem refuseFaulted_lastBusTs : (refuseFaulted s).lastBusTs = s.lastBusTs := rfl
@[simp] theorem refuseFaulted_busUsed : (refuseFaulted s).busUsed = s.busUsed := rfl
@[simp] theorem refuseFaulted_waitsGiven : (refuseFaulted s).waitsGiven = s.waitsGiven := rfl
@[simp] theorem refuseFaulted_nmiClaimed : (refuseFaulted s).nmiClaimed = s.nmiClaimed := rfl
@[simp] theorem refuseFaulted_nmiAccepted : (refuseFaulted s).nmiAccepted = s.nmiAccepted := rfl
@[simp] theorem refuseFaulted_refused : (refuseFaulted s).refused = s.refused := rfl
@[simp] theorem refuseFaulted_result : (refuseFaulted s).result = .faulted := rfl
@[simp] theorem refuseFaulted_fault : (refuseFaulted s).fault = s.fault := rfl
@[simp] theorem refuseFaulted_border : (refuseFaulted s).border = s.border := rfl
@[simp] theorem refuseFaulted_earmic : (refuseFaulted s).earmic = s.earmic := rfl
@[simp] theorem refuseFaulted_paging : (refuseFaulted s).paging = s.paging := rfl
@[simp] theorem refuseFaulted_mode : (refuseFaulted s).mode = s.mode := rfl
@[simp] theorem refuseFaulted_hsr : (refuseFaulted s).hsr = s.hsr := rfl
@[simp] theorem refuseFaulted_slots : (refuseFaulted s).slots = s.slots := rfl
@[simp] theorem refuseFaulted_logs : (refuseFaulted s).logs = s.logs := rfl
@[simp] theorem refuseFaulted_lastLogTs : (refuseFaulted s).lastLogTs = s.lastLogTs := rfl
@[simp] theorem refuseFaulted_dev : (refuseFaulted s).dev = s.dev := rfl
@[simp] theorem refuseFaulted_ram : (refuseFaulted s).ram = s.ram := rfl
@[simp] theorem refuseFaulted_ramGen : (refuseFaulted s).ramGen = s.ramGen := rfl
@[simp] theorem refuseFaulted_draws : (refuseFaulted s).draws = s.draws := rfl
@[simp] theorem refuseFaulted_value : (refuseFaulted s).value = 0 := rfl
@[simp] theorem refuseFaulted_blob : (refuseFaulted s).blob = s.blob := rfl
@[simp] theorem refuseFaulted_busReply : (refuseFaulted s).busReply = s.busReply := rfl
@[simp] theorem refuseFaulted_calls : (refuseFaulted s).calls = s.calls := rfl
@[simp] theorem refuseFaulted_payload : (refuseFaulted s).payload = s.payload := rfl
@[simp] theorem refuseFaulted_pend : (refuseFaulted s).pend = s.pend := rfl
@[simp] theorem refuseFaulted_hostIn : (refuseFaulted s).hostIn = s.hostIn := rfl
@[simp] theorem refuseFaulted_cpuIn : (refuseFaulted s).cpuIn = s.cpuIn := rfl
@[simp] theorem refuseFaulted_devIn : (refuseFaulted s).devIn = s.devIn := rfl

end

section
variable (w : BitVec 32) (l : Bool) (d : Byte) (s : State)

@[simp] theorem busAnswer_cfg : (busAnswer w l d s).cfg = s.cfg := rfl
@[simp] theorem busAnswer_tsc : (busAnswer w l d s).tsc = s.tsc := rfl
@[simp] theorem busAnswer_frames : (busAnswer w l d s).frames = s.frames := rfl
@[simp] theorem busAnswer_ctrl : (busAnswer w l d s).ctrl = s.ctrl := rfl
@[simp] theorem busAnswer_busy : (busAnswer w l d s).busy = s.busy := rfl
@[simp] theorem busAnswer_stepStart : (busAnswer w l d s).stepStart = s.stepStart := rfl
@[simp] theorem busAnswer_lastBusTs : (busAnswer w l d s).lastBusTs = s.lastBusTs := rfl
@[simp] theorem busAnswer_busUsed : (busAnswer w l d s).busUsed = s.busUsed := rfl
@[simp] theorem busAnswer_waitsGiven : (busAnswer w l d s).waitsGiven = s.waitsGiven + w.toNat := rfl
@[simp] theorem busAnswer_nmiClaimed : (busAnswer w l d s).nmiClaimed = s.nmiClaimed := rfl
@[simp] theorem busAnswer_nmiAccepted : (busAnswer w l d s).nmiAccepted = s.nmiAccepted := rfl
@[simp] theorem busAnswer_refused : (busAnswer w l d s).refused = s.refused := rfl
@[simp] theorem busAnswer_result : (busAnswer w l d s).result = s.result := rfl
@[simp] theorem busAnswer_fault : (busAnswer w l d s).fault = s.fault := rfl
@[simp] theorem busAnswer_border : (busAnswer w l d s).border = s.border := rfl
@[simp] theorem busAnswer_earmic : (busAnswer w l d s).earmic = s.earmic := rfl
@[simp] theorem busAnswer_paging : (busAnswer w l d s).paging = s.paging := rfl
@[simp] theorem busAnswer_mode : (busAnswer w l d s).mode = s.mode := rfl
@[simp] theorem busAnswer_hsr : (busAnswer w l d s).hsr = s.hsr := rfl
@[simp] theorem busAnswer_slots : (busAnswer w l d s).slots = s.slots := rfl
@[simp] theorem busAnswer_logs : (busAnswer w l d s).logs = s.logs := rfl
@[simp] theorem busAnswer_lastLogTs : (busAnswer w l d s).lastLogTs = s.lastLogTs := rfl
@[simp] theorem busAnswer_dev : (busAnswer w l d s).dev = s.dev := rfl
@[simp] theorem busAnswer_ram : (busAnswer w l d s).ram = s.ram := rfl
@[simp] theorem busAnswer_ramGen : (busAnswer w l d s).ramGen = s.ramGen := rfl
@[simp] theorem busAnswer_draws : (busAnswer w l d s).draws = s.draws := rfl
@[simp] theorem busAnswer_value : (busAnswer w l d s).value = s.value := rfl
@[simp] theorem busAnswer_blob : (busAnswer w l d s).blob = s.blob := rfl
@[simp] theorem busAnswer_busReply : (busAnswer w l d s).busReply = ⟨w, l, d⟩ := rfl
@[simp] theorem busAnswer_calls : (busAnswer w l d s).calls = s.calls := rfl
@[simp] theorem busAnswer_payload : (busAnswer w l d s).payload = s.payload := rfl
@[simp] theorem busAnswer_pend : (busAnswer w l d s).pend = s.pend := rfl
@[simp] theorem busAnswer_hostIn : (busAnswer w l d s).hostIn = s.hostIn := rfl
@[simp] theorem busAnswer_cpuIn : (busAnswer w l d s).cpuIn = s.cpuIn := rfl
@[simp] theorem busAnswer_devIn : (busAnswer w l d s).devIn = s.devIn := rfl

end

section
variable (a : AgentCall) (s : State)

@[simp] theorem recordCall_cfg : (recordCall a s).cfg = s.cfg := rfl
@[simp] theorem recordCall_tsc : (recordCall a s).tsc = s.tsc := rfl
@[simp] theorem recordCall_frames : (recordCall a s).frames = s.frames := rfl
@[simp] theorem recordCall_ctrl : (recordCall a s).ctrl = s.ctrl := rfl
@[simp] theorem recordCall_busy : (recordCall a s).busy = s.busy := rfl
@[simp] theorem recordCall_stepStart : (recordCall a s).stepStart = s.stepStart := rfl
@[simp] theorem recordCall_lastBusTs : (recordCall a s).lastBusTs = s.lastBusTs := rfl
@[simp] theorem recordCall_busUsed : (recordCall a s).busUsed = s.busUsed := rfl
@[simp] theorem recordCall_waitsGiven : (recordCall a s).waitsGiven = s.waitsGiven := rfl
@[simp] theorem recordCall_nmiClaimed : (recordCall a s).nmiClaimed = s.nmiClaimed := rfl
@[simp] theorem recordCall_nmiAccepted : (recordCall a s).nmiAccepted = s.nmiAccepted := rfl
@[simp] theorem recordCall_refused : (recordCall a s).refused = s.refused := rfl
@[simp] theorem recordCall_result : (recordCall a s).result = s.result := rfl
@[simp] theorem recordCall_fault : (recordCall a s).fault = s.fault := rfl
@[simp] theorem recordCall_border : (recordCall a s).border = s.border := rfl
@[simp] theorem recordCall_earmic : (recordCall a s).earmic = s.earmic := rfl
@[simp] theorem recordCall_paging : (recordCall a s).paging = s.paging := rfl
@[simp] theorem recordCall_mode : (recordCall a s).mode = s.mode := rfl
@[simp] theorem recordCall_hsr : (recordCall a s).hsr = s.hsr := rfl
@[simp] theorem recordCall_slots : (recordCall a s).slots = s.slots := rfl
@[simp] theorem recordCall_logs : (recordCall a s).logs = s.logs := rfl
@[simp] theorem recordCall_lastLogTs : (recordCall a s).lastLogTs = s.lastLogTs := rfl
@[simp] theorem recordCall_dev : (recordCall a s).dev = s.dev := rfl
@[simp] theorem recordCall_ram : (recordCall a s).ram = s.ram := rfl
@[simp] theorem recordCall_ramGen : (recordCall a s).ramGen = s.ramGen := rfl
@[simp] theorem recordCall_draws : (recordCall a s).draws = s.draws := rfl
@[simp] theorem recordCall_value : (recordCall a s).value = s.value := rfl
@[simp] theorem recordCall_blob : (recordCall a s).blob = s.blob := rfl
@[simp] theorem recordCall_busReply : (recordCall a s).busReply = s.busReply := rfl
@[simp] theorem recordCall_calls : (recordCall a s).calls = a :: s.calls := rfl
@[simp] theorem recordCall_payload : (recordCall a s).payload = s.payload := rfl
@[simp] theorem recordCall_pend : (recordCall a s).pend = s.pend := rfl
@[simp] theorem recordCall_hostIn : (recordCall a s).hostIn = s.hostIn := rfl
@[simp] theorem recordCall_cpuIn : (recordCall a s).cpuIn = s.cpuIn := rfl
@[simp] theorem recordCall_devIn : (recordCall a s).devIn = s.devIn := rfl

end

section
variable (a : Nat) (v : Byte) (s : State)

@[simp] theorem ramStore_cfg : (ramStore a v s).cfg = s.cfg := rfl
@[simp] theorem ramStore_tsc : (ramStore a v s).tsc = s.tsc := rfl
@[simp] theorem ramStore_frames : (ramStore a v s).frames = s.frames := rfl
@[simp] theorem ramStore_ctrl : (ramStore a v s).ctrl = s.ctrl := rfl
@[simp] theorem ramStore_busy : (ramStore a v s).busy = s.busy := rfl
@[simp] theorem ramStore_stepStart : (ramStore a v s).stepStart = s.stepStart := rfl
@[simp] theorem ramStore_lastBusTs : (ramStore a v s).lastBusTs = s.lastBusTs := rfl
@[simp] theorem ramStore_busUsed : (ramStore a v s).busUsed = s.busUsed := rfl
@[simp] theorem ramStore_waitsGiven : (ramStore a v s).waitsGiven = s.waitsGiven := rfl
@[simp] theorem ramStore_nmiClaimed : (ramStore a v s).nmiClaimed = s.nmiClaimed := rfl
@[simp] theorem ramStore_nmiAccepted : (ramStore a v s).nmiAccepted = s.nmiAccepted := rfl
@[simp] theorem ramStore_refused : (ramStore a v s).refused = s.refused := rfl
@[simp] theorem ramStore_result : (ramStore a v s).result = s.result := rfl
@[simp] theorem ramStore_fault : (ramStore a v s).fault = s.fault := rfl
@[simp] theorem ramStore_border : (ramStore a v s).border = s.border := rfl
@[simp] theorem ramStore_earmic : (ramStore a v s).earmic = s.earmic := rfl
@[simp] theorem ramStore_paging : (ramStore a v s).paging = s.paging := rfl
@[simp] theorem ramStore_mode : (ramStore a v s).mode = s.mode := rfl
@[simp] theorem ramStore_hsr : (ramStore a v s).hsr = s.hsr := rfl
@[simp] theorem ramStore_slots : (ramStore a v s).slots = s.slots := rfl
@[simp] theorem ramStore_logs : (ramStore a v s).logs = s.logs := rfl
@[simp] theorem ramStore_lastLogTs : (ramStore a v s).lastLogTs = s.lastLogTs := rfl
@[simp] theorem ramStore_dev : (ramStore a v s).dev = s.dev := rfl
@[simp] theorem ramStore_ram : (ramStore a v s).ram = ramSet s.ram a v := rfl
@[simp] theorem ramStore_ramGen : (ramStore a v s).ramGen = s.ramGen := rfl
@[simp] theorem ramStore_draws : (ramStore a v s).draws = s.draws := rfl
@[simp] theorem ramStore_value : (ramStore a v s).value = s.value := rfl
@[simp] theorem ramStore_blob : (ramStore a v s).blob = s.blob := rfl
@[simp] theorem ramStore_busReply : (ramStore a v s).busReply = s.busReply := rfl
@[simp] theorem ramStore_calls : (ramStore a v s).calls = s.calls := rfl
@[simp] theorem ramStore_payload : (ramStore a v s).payload = s.payload := rfl
@[simp] theorem ramStore_pend : (ramStore a v s).pend = s.pend := rfl
@[simp] theorem ramStore_hostIn : (ramStore a v s).hostIn = s.hostIn := rfl
@[simp] theorem ramStore_cpuIn : (ramStore a v s).cpuIn = s.cpuIn := rfl
@[simp] theorem ramStore_devIn : (ramStore a v s).devIn = s.devIn := rfl

end

section
variable (c : CpuCall) (a : AgentCall) (s : State)

@[simp] theorem callCpu_cfg : (callCpu c a s).cfg = s.cfg := rfl
@[simp] theorem callCpu_tsc : (callCpu c a s).tsc = s.tsc := rfl
@[simp] theorem callCpu_frames : (callCpu c a s).frames = s.frames := rfl
@[simp] theorem callCpu_ctrl : (callCpu c a s).ctrl = s.ctrl := rfl
@[simp] theorem callCpu_busy : (callCpu c a s).busy = s.busy := rfl
@[simp] theorem callCpu_stepStart : (callCpu c a s).stepStart = s.stepStart := rfl
@[simp] theorem callCpu_lastBusTs : (callCpu c a s).lastBusTs = s.lastBusTs := rfl
@[simp] theorem callCpu_busUsed : (callCpu c a s).busUsed = s.busUsed := rfl
@[simp] theorem callCpu_waitsGiven : (callCpu c a s).waitsGiven = s.waitsGiven := rfl
@[simp] theorem callCpu_nmiClaimed : (callCpu c a s).nmiClaimed = s.nmiClaimed := rfl
@[simp] theorem callCpu_nmiAccepted : (callCpu c a s).nmiAccepted = s.nmiAccepted := rfl
@[simp] theorem callCpu_refused : (callCpu c a s).refused = s.refused := rfl
@[simp] theorem callCpu_result : (callCpu c a s).result = s.result := rfl
@[simp] theorem callCpu_fault : (callCpu c a s).fault = s.fault := rfl
@[simp] theorem callCpu_border : (callCpu c a s).border = s.border := rfl
@[simp] theorem callCpu_earmic : (callCpu c a s).earmic = s.earmic := rfl
@[simp] theorem callCpu_paging : (callCpu c a s).paging = s.paging := rfl
@[simp] theorem callCpu_mode : (callCpu c a s).mode = s.mode := rfl
@[simp] theorem callCpu_hsr : (callCpu c a s).hsr = s.hsr := rfl
@[simp] theorem callCpu_slots : (callCpu c a s).slots = s.slots := rfl
@[simp] theorem callCpu_logs : (callCpu c a s).logs = s.logs := rfl
@[simp] theorem callCpu_lastLogTs : (callCpu c a s).lastLogTs = s.lastLogTs := rfl
@[simp] theorem callCpu_dev : (callCpu c a s).dev = s.dev := rfl
@[simp] theorem callCpu_ram : (callCpu c a s).ram = s.ram := rfl
@[simp] theorem callCpu_ramGen : (callCpu c a s).ramGen = s.ramGen := rfl
@[simp] theorem callCpu_draws : (callCpu c a s).draws = s.draws := rfl
@[simp] theorem callCpu_value : (callCpu c a s).value = s.value := rfl
@[simp] theorem callCpu_blob : (callCpu c a s).blob = s.blob := rfl
@[simp] theorem callCpu_busReply : (callCpu c a s).busReply = s.busReply := rfl
@[simp] theorem callCpu_calls : (callCpu c a s).calls = a :: s.calls := rfl
@[simp] theorem callCpu_payload : (callCpu c a s).payload = s.payload := rfl
@[simp] theorem callCpu_pend : (callCpu c a s).pend = .cpu c := rfl
@[simp] theorem callCpu_hostIn : (callCpu c a s).hostIn = s.hostIn := rfl
@[simp] theorem callCpu_cpuIn : (callCpu c a s).cpuIn = s.cpuIn := rfl
@[simp] theorem callCpu_devIn : (callCpu c a s).devIn = s.devIn := rfl

end

section
variable (k : Nat) (n : Notice) (s : State)

@[simp] theorem askDev_cfg : (askDev k n s).cfg = s.cfg := rfl
@[simp] theorem askDev_tsc : (askDev k n s).tsc = s.tsc := rfl
@[simp] theorem askDev_frames : (askDev k n s).frames = s.frames := rfl
@[simp] theorem askDev_ctrl : (askDev k n s).ctrl = s.ctrl := rfl
@[simp] theorem askDev_busy : (askDev k n s).busy = s.busy := rfl
@[simp] theorem askDev_stepStart : (askDev k n s).stepStart = s.stepStart := rfl
@[simp] theorem askDev_lastBusTs : (askDev k n s).lastBusTs = s.lastBusTs := rfl
@[simp] theorem askDev_busUsed : (askDev k n s).busUsed = s.busUsed := rfl
@[simp] theorem askDev_waitsGiven : (askDev k n s).waitsGiven = s.waitsGiven := rfl
@[simp] theorem askDev_nmiClaimed : (askDev k n s).nmiClaimed = s.nmiClaimed := rfl
@[simp] theorem askDev_nmiAccepted : (askDev k n s).nmiAccepted = s.nmiAccepted := rfl
@[simp] theorem askDev_refused : (askDev k n s).refused = s.refused := rfl
@[simp] theorem askDev_result : (askDev k n s).result = s.result := rfl
@[simp] theorem askDev_fault : (askDev k n s).fault = s.fault := rfl
@[simp] theorem askDev_border : (askDev k n s).border = s.border := rfl
@[simp] theorem askDev_earmic : (askDev k n s).earmic = s.earmic := rfl
@[simp] theorem askDev_paging : (askDev k n s).paging = s.paging := rfl
@[simp] theorem askDev_mode : (askDev k n s).mode = s.mode := rfl
@[simp] theorem askDev_hsr : (askDev k n s).hsr = s.hsr := rfl
@[simp] theorem askDev_slots : (askDev k n s).slots = s.slots := rfl
@[simp] theorem askDev_logs : (askDev k n s).logs = s.logs := rfl
@[simp] theorem askDev_lastLogTs : (askDev k n s).lastLogTs = s.lastLogTs := rfl
@[simp] theorem askDev_dev : (askDev k n s).dev = s.dev := rfl
@[simp] theorem askDev_ram : (askDev k n s).ram = s.ram := rfl
@[simp] theorem askDev_ramGen : (askDev k n s).ramGen = s.ramGen := rfl
@[simp] theorem askDev_draws : (askDev k n s).draws = s.draws := rfl
@[simp] theorem askDev_value : (askDev k n s).value = s.value := rfl
@[simp] theorem askDev_blob : (askDev k n s).blob = s.blob := rfl
@[simp] theorem askDev_busReply : (askDev k n s).busReply = s.busReply := rfl
@[simp] theorem askDev_calls : (askDev k n s).calls = .dev k (agentIdAt s k) (noticeOp s.tsc n) :: s.calls := rfl
@[simp] theorem askDev_payload : (askDev k n s).payload = s.payload := rfl
@[simp] theorem askDev_pend : (askDev k n s).pend = .notify k n := rfl
@[simp] theorem askDev_hostIn : (askDev k n s).hostIn = s.hostIn := rfl
@[simp] theorem askDev_cpuIn : (askDev k n s).cpuIn = s.cpuIn := rfl
@[simp] theorem askDev_devIn : (askDev k n s).devIn = s.devIn := rfl

end

section
variable (c : CpuCall) (d : Dir) (w : BitVec 32) (k id : Nat) (op : DevOp) (s : State)

@[simp] theorem askIo_cfg : (askIo c d w k id op s).cfg = s.cfg := rfl
@[simp] theorem askIo_tsc : (askIo c d w k id op s).tsc = s.tsc := rfl
@[simp] theorem askIo_frames : (askIo c d w k id op s).frames = s.frames := rfl
@[simp] theorem askIo_ctrl : (askIo c d w k id op s).ctrl = s.ctrl := rfl
@[simp] theorem askIo_busy : (askIo c d w k id op s).busy = s.busy := rfl
@[simp] theorem askIo_stepStart : (askIo c d w k id op s).stepStart = s.stepStart := rfl
@[simp] theorem askIo_lastBusTs : (askIo c d w k id op s).lastBusTs = s.lastBusTs := rfl
@[simp] theorem askIo_busUsed : (askIo c d w k id op s).busUsed = s.busUsed := rfl
@[simp] theorem askIo_waitsGiven : (askIo c d w k id op s).waitsGiven = s.waitsGiven := rfl
@[simp] theorem askIo_nmiClaimed : (askIo c d w k id op s).nmiClaimed = s.nmiClaimed := rfl
@[simp] theorem askIo_nmiAccepted : (askIo c d w k id op s).nmiAccepted = s.nmiAccepted := rfl
@[simp] theorem askIo_refused : (askIo c d w k id op s).refused = s.refused := rfl
@[simp] theorem askIo_result : (askIo c d w k id op s).result = s.result := rfl
@[simp] theorem askIo_fault : (askIo c d w k id op s).fault = s.fault := rfl
@[simp] theorem askIo_border : (askIo c d w k id op s).border = s.border := rfl
@[simp] theorem askIo_earmic : (askIo c d w k id op s).earmic = s.earmic := rfl
@[simp] theorem askIo_paging : (askIo c d w k id op s).paging = s.paging := rfl
@[simp] theorem askIo_mode : (askIo c d w k id op s).mode = s.mode := rfl
@[simp] theorem askIo_hsr : (askIo c d w k id op s).hsr = s.hsr := rfl
@[simp] theorem askIo_slots : (askIo c d w k id op s).slots = s.slots := rfl
@[simp] theorem askIo_logs : (askIo c d w k id op s).logs = s.logs := rfl
@[simp] theorem askIo_lastLogTs : (askIo c d w k id op s).lastLogTs = s.lastLogTs := rfl
@[simp] theorem askIo_dev : (askIo c d w k id op s).dev = s.dev := rfl
@[simp] theorem askIo_ram : (askIo c d w k id op s).ram = s.ram := rfl
@[simp] theorem askIo_ramGen : (askIo c d w k id op s).ramGen = s.ramGen := rfl
@[simp] theorem askIo_draws : (askIo c d w k id op s).draws = s.draws := rfl
@[simp] theorem askIo_value : (askIo c d w k id op s).value = s.value := rfl
@[simp] theorem askIo_blob : (askIo c d w k id op s).blob = s.blob := rfl
@[simp] theorem askIo_busReply : (askIo c d w k id op s).busReply = s.busReply := rfl
@[simp] theorem askIo_calls : (askIo c d w k id op s).calls = .dev k id op :: s.calls := rfl
@[simp] theorem askIo_payload : (askIo c d w k id op s).payload = s.payload := rfl
@[simp] theorem askIo_pend : (askIo c d w k id op s).pend = .io c d w := rfl
@[simp] theorem askIo_hostIn : (askIo c d w k id op s).hostIn = s.hostIn := rfl
@[simp] theorem askIo_cpuIn : (askIo c d w k id op s).cpuIn = s.cpuIn := rfl
@[simp] theorem askIo_devIn : (askIo c d w k id op s).devIn = s.devIn := rfl

end

section
variable (s : State)

@[simp] theorem startCall_cfg : (startCall s).cfg = s.cfg := rfl
@[simp] theorem startCall_tsc : (startCall s).tsc = s.tsc := rfl
@[simp] theorem startCall_frames : (startCall s).frames = s.frames := rfl
@[simp] theorem startCall_ctrl : (startCall s).ctrl = s.ctrl := rfl
@[simp] theorem startCall_busy : (startCall s).busy = s.busy := rfl
@[simp] theorem startCall_stepStart : (startCall s).stepStart = s.tsc := rfl
@[simp] theorem startCall_lastBusTs : (startCall s).lastBusTs = s.tsc := rfl
@[simp] theorem startCall_busUsed : (startCall s).busUsed = false := rfl
@[simp] theorem startCall_waitsGiven : (startCall s).waitsGiven = 0 := rfl
@[simp] theorem startCall_nmiClaimed : (startCall s).nmiClaimed = s.nmiClaimed := rfl
@[simp] theorem startCall_nmiAccepted : (startCall s).nmiAccepted = s.nmiAccepted := rfl
@[simp] theorem startCall_refused : (startCall s).refused = s.refused := rfl
@[simp] theorem startCall_result : (startCall s).result = s.result := rfl
@[simp] theorem startCall_fault : (startCall s).fault = s.fault := rfl
@[simp] theorem startCall_border : (startCall s).border = s.border := rfl
@[simp] theorem startCall_earmic : (startCall s).earmic = s.earmic := rfl
@[simp] theorem startCall_paging : (startCall s).paging = s.paging := rfl
@[simp] theorem startCall_mode : (startCall s).mode = s.mode := rfl
@[simp] theorem startCall_hsr : (startCall s).hsr = s.hsr := rfl
@[simp] theorem startCall_slots : (startCall s).slots = s.slots := rfl
@[simp] theorem startCall_logs : (startCall s).logs = s.logs := rfl
@[simp] theorem startCall_lastLogTs : (startCall s).lastLogTs = s.lastLogTs := rfl
@[simp] theorem startCall_dev : (startCall s).dev = s.dev := rfl
@[simp] theorem startCall_ram : (startCall s).ram = s.ram := rfl
@[simp] theorem startCall_ramGen : (startCall s).ramGen = s.ramGen := rfl
@[simp] theorem startCall_draws : (startCall s).draws = s.draws := rfl
@[simp] theorem startCall_value : (startCall s).value = s.value := rfl
@[simp] theorem startCall_blob : (startCall s).blob = s.blob := rfl
@[simp] theorem startCall_busReply : (startCall s).busReply = s.busReply := rfl
@[simp] theorem startCall_calls : (startCall s).calls = s.calls := rfl
@[simp] theorem startCall_payload : (startCall s).payload = s.payload := rfl
@[simp] theorem startCall_pend : (startCall s).pend = s.pend := rfl
@[simp] theorem startCall_hostIn : (startCall s).hostIn = s.hostIn := rfl
@[simp] theorem startCall_cpuIn : (startCall s).cpuIn = s.cpuIn := rfl
@[simp] theorem startCall_devIn : (startCall s).devIn = s.devIn := rfl

end

section
variable (single dbg : Bool) (s : State)

@[simp] theorem beginStep_cfg : (beginStep single dbg s).cfg = s.cfg := rfl
@[simp] theorem beginStep_tsc : (beginStep single dbg s).tsc = s.tsc := rfl
@[simp] theorem beginStep_frames : (beginStep single dbg s).frames = s.frames := rfl
@[simp] theorem beginStep_ctrl : (beginStep single dbg s).ctrl = s.ctrl := rfl
@[simp] theorem beginStep_busy : (beginStep single dbg s).busy = s.busy := rfl
@[simp] theorem beginStep_stepStart : (beginStep single dbg s).stepStart = s.tsc := rfl
@[simp] theorem beginStep_lastBusTs : (beginStep single dbg s).lastBusTs = s.tsc := rfl
@[simp] theorem beginStep_busUsed : (beginStep single dbg s).busUsed = false := rfl
@[simp] theorem beginStep_waitsGiven : (beginStep single dbg s).waitsGiven = 0 := rfl
@[simp] theorem beginStep_nmiClaimed : (beginStep single dbg s).nmiClaimed = s.nmiClaimed := rfl
@[simp] theorem beginStep_nmiAccepted : (beginStep single dbg s).nmiAccepted = s.nmiAccepted := rfl
@[simp] theorem beginStep_refused : (beginStep single dbg s).refused = s.refused := rfl
@[simp] theorem beginStep_result : (beginStep single dbg s).result = s.result := rfl
@[simp] theorem beginStep_fault : (beginStep single dbg s).fault = s.fault := rfl
@[simp] theorem beginStep_border : (beginStep single dbg s).border = s.border := rfl
@[simp] theorem beginStep_earmic : (beginStep single dbg s).earmic = s.earmic := rfl
@[simp] theorem beginStep_paging : (beginStep single dbg s).paging = s.paging := rfl
@[simp] theorem beginStep_mode : (beginStep single dbg s).mode = s.mode := rfl
@[simp] theorem beginStep_hsr : (beginStep single dbg s).hsr = s.hsr := rfl
@[simp] theorem beginStep_slots : (beginStep single dbg s).slots = s.slots := rfl
@[simp] theorem beginStep_logs : (beginStep single dbg s).logs = s.logs := rfl
@[simp] theorem beginStep_lastLogTs : (beginStep single dbg s).lastLogTs = s.lastLogTs := rfl
@[simp] theorem beginStep_dev : (beginStep single dbg s).dev = s.dev := rfl
@[simp] theorem beginStep_ram : (beginStep single dbg s).ram = s.ram := rfl
@[simp] theorem beginStep_ramGen : (beginStep single dbg s).ramGen = s.ramGen := rfl
@[simp] theorem beginStep_draws : (beginStep single dbg s).draws = s.draws := rfl
@[simp] theorem beginStep_value : (beginStep single dbg s).value = s.value := rfl
@[simp] theorem beginStep_blob : (beginStep single dbg s).blob = s.blob := rfl
@[simp] theorem beginStep_busReply : (beginStep single dbg s).busReply = s.busReply := rfl
@[simp] theorem beginStep_calls : (beginStep single dbg s).calls = .cpuStep s.tsc dbg :: s.calls := rfl
@[simp] theorem beginStep_payload : (beginStep single dbg s).payload = s.payload := rfl
@[simp] theorem beginStep_pend : (beginStep single dbg s).pend = .cpu (.step single) := rfl
@[simp] theorem beginStep_hostIn : (beginStep single dbg s).hostIn = s.hostIn := rfl
@[simp] theorem beginStep_cpuIn : (beginStep single dbg s).cpuIn = s.cpuIn := rfl
@[simp] theorem beginStep_devIn : (beginStep single dbg s).devIn = s.devIn := rfl

end

section
variable (claimed : Bool) (s : State)

@[simp] theorem beginNmi_cfg : (beginNmi claimed s).cfg = s.cfg := rfl
@[simp] theorem beginNmi_tsc : (beginNmi claimed s).tsc = s.tsc := rfl
@[simp] theorem beginNmi_frames : (beginNmi claimed s).frames = s.frames := rfl
@[simp] theorem beginNmi_ctrl : (beginNmi claimed s).ctrl = s.ctrl := rfl
@[simp] theorem beginNmi_busy : (beginNmi claimed s).busy = s.busy := rfl
@[simp] theorem beginNmi_stepStart : (beginNmi claimed s).stepStart = s.tsc := rfl
@[simp] theorem beginNmi_lastBusTs : (beginNmi claimed s).lastBusTs = s.tsc := rfl
@[simp] theorem beginNmi_busUsed : (beginNmi claimed s).busUsed = false := rfl
@[simp] theorem beginNmi_waitsGiven : (beginNmi claimed s).waitsGiven = 0 := rfl
@[simp] theorem beginNmi_nmiClaimed : (beginNmi claimed s).nmiClaimed = s.nmiClaimed := rfl
@[simp] theorem beginNmi_nmiAccepted : (beginNmi claimed s).nmiAccepted = s.nmiAccepted := rfl
@[simp] theorem beginNmi_refused : (beginNmi claimed s).refused = s.refused := rfl
@[simp] theorem beginNmi_result : (beginNmi claimed s).result = s.result := rfl
@[simp] theorem beginNmi_fault : (beginNmi claimed s).fault = s.fault := rfl
@[simp] theorem beginNmi_border : (beginNmi claimed s).border = s.border := rfl
@[simp] theorem beginNmi_earmic : (beginNmi claimed s).earmic = s.earmic := rfl
@[simp] theorem beginNmi_paging : (beginNmi claimed s).paging = s.paging := rfl
@[simp] theorem beginNmi_mode : (beginNmi claimed s).mode = s.mode := rfl
@[simp] theorem beginNmi_hsr : (beginNmi claimed s).hsr = s.hsr := rfl
@[simp] theorem beginNmi_slots : (beginNmi claimed s).slots = s.slots := rfl
@[simp] theorem beginNmi_logs : (beginNmi claimed s).logs = s.logs := rfl
@[simp] theorem beginNmi_lastLogTs : (beginNmi claimed s).lastLogTs = s.lastLogTs := rfl
@[simp] theorem beginNmi_dev : (beginNmi claimed s).dev = s.dev := rfl
@[simp] theorem beginNmi_ram : (beginNmi claimed s).ram = s.ram := rfl
@[simp] theorem beginNmi_ramGen : (beginNmi claimed s).ramGen = s.ramGen := rfl
@[simp] theorem beginNmi_draws : (beginNmi claimed s).draws = s.draws := rfl
@[simp] theorem beginNmi_value : (beginNmi claimed s).value = s.value := rfl
@[simp] theorem beginNmi_blob : (beginNmi claimed s).blob = s.blob := rfl
@[simp] theorem beginNmi_busReply : (beginNmi claimed s).busReply = s.busReply := rfl
@[simp] theorem beginNmi_calls : (beginNmi claimed s).calls = .cpuNmi s.tsc :: s.calls := rfl
@[simp] theorem beginNmi_payload : (beginNmi claimed s).payload = s.payload := rfl
@[simp] theorem beginNmi_pend : (beginNmi claimed s).pend = .cpu (.nmi claimed) := rfl
@[simp] theorem beginNmi_hostIn : (beginNmi claimed s).hostIn = s.hostIn := rfl
@[simp] theorem beginNmi_cpuIn : (beginNmi claimed s).cpuIn = s.cpuIn := rfl
@[simp] theorem beginNmi_devIn : (beginNmi claimed s).devIn = s.devIn := rfl

end

section
variable (s : State)

@[simp] theorem logRestart_cfg : (logRestart s).cfg = s.cfg := rfl
@[simp] theorem logRestart_tsc : (logRestart s).tsc = s.tsc := rfl
@[simp] theorem logRestart_frames : (logRestart s).frames = s.frames := rfl
@[simp] theorem logRestart_ctrl : (logRestart s).ctrl = s.ctrl := rfl
@[simp] theorem logRestart_busy : (logRestart s).busy = s.busy := rfl
@[simp] theorem logRestart_stepStart : (logRestart s).stepStart = s.stepStart := rfl
@[simp] theorem logRestart_lastBusTs : (logRestart s).lastBusTs = s.lastBusTs := rfl
@[simp] theorem logRestart_busUsed : (logRestart s).busUsed = s.busUsed := rfl
@[simp] theorem logRestart_waitsGiven : (logRestart s).waitsGiven = s.waitsGiven := rfl
@[simp] theorem logRestart_nmiClaimed : (logRestart s).nmiClaimed = s.nmiClaimed := rfl
@[simp] theorem logRestart_nmiAccepted : (logRestart s).nmiAccepted = s.nmiAccepted := rfl
@[simp] theorem logRestart_refused : (logRestart s).refused = s.refused := rfl
@[simp] theorem logRestart_result : (logRestart s).result = s.result := rfl
@[simp] theorem logRestart_fault : (logRestart s).fault = s.fault := rfl
@[simp] theorem logRestart_border : (logRestart s).border = s.border := rfl
@[simp] theorem logRestart_earmic : (logRestart s).earmic = s.earmic := rfl
@[simp] theorem logRestart_paging : (logRestart s).paging = s.paging := rfl
@[simp] theorem logRestart_mode : (logRestart s).mode = s.mode := rfl
@[simp] theorem logRestart_hsr : (logRestart s).hsr = s.hsr := rfl
@[simp] theorem logRestart_slots : (logRestart s).slots = s.slots := rfl
@[simp] theorem logRestart_logs : (logRestart s).logs = ⟨SubLog.fresh (eff s .border), SubLog.fresh (eff s .mode), SubLog.fresh (eff s .shadow), SubLog.fresh (eff s .source)⟩ := rfl
@[simp] theorem logRestart_lastLogTs : (logRestart s).lastLogTs = 0 := rfl
@[simp] theorem logRestart_dev : (logRestart s).dev = s.dev := rfl
@[simp] theorem logRestart_ram : (logRestart s).ram = s.ram := rfl
@[simp] theorem logRestart_ramGen : (logRestart s).ramGen = s.ramGen := rfl
@[simp] theorem logRestart_draws : (logRestart s).draws = s.draws := rfl
@[simp] theorem logRestart_value : (logRestart s).value = s.value := rfl
@[simp] theorem logRestart_blob : (logRestart s).blob = s.blob := rfl
@[simp] theorem logRestart_busReply : (logRestart s).busReply = s.busReply := rfl
@[simp] theorem logRestart_calls : (logRestart s).calls = .clearRenderingCache :: s.calls := rfl
@[simp] theorem logRestart_payload : (logRestart s).payload = s.payload := rfl
@[simp] theorem logRestart_pend : (logRestart s).pend = s.pend := rfl
@[simp] theorem logRestart_hostIn : (logRestart s).hostIn = s.hostIn := rfl
@[simp] theorem logRestart_cpuIn : (logRestart s).cpuIn = s.cpuIn := rfl
@[simp] theorem logRestart_devIn : (logRestart s).devIn = s.devIn := rfl

end

section
variable (s : State)

@[simp] theorem wrap_cfg : (wrap s).cfg = s.cfg := rfl
@[simp] theorem wrap_tsc : (wrap s).tsc = BitVec.ofNat 32 (s.tsc.toNat - s.cfg.n) := rfl
@[simp] theorem wrap_frames : (wrap s).frames = s.frames + 1 := rfl
@[simp] theorem wrap_ctrl : (wrap s).ctrl = s.ctrl := rfl
@[simp] theorem wrap_busy : (wrap s).busy = s.busy := rfl
@[simp] theorem wrap_stepStart : (wrap s).stepStart = s.stepStart := rfl
@[simp] theorem wrap_lastBusTs : (wrap s).lastBusTs = s.lastBusTs := rfl
@[simp] theorem wrap_busUsed : (wrap s).busUsed = s.busUsed := rfl
@[simp] theorem wrap_waitsGiven : (wrap s).waitsGiven = s.waitsGiven := rfl
@[simp] theorem wrap_nmiClaimed : (wrap s).nmiClaimed = s.nmiClaimed := rfl
@[simp] theorem wrap_nmiAccepted : (wrap s).nmiAccepted = s.nmiAccepted := rfl
@[simp] theorem wrap_refused : (wrap s).refused = s.refused := rfl
@[simp] theorem wrap_result : (wrap s).result = s.result := rfl
@[simp] theorem wrap_fault : (wrap s).fault = s.fault := rfl
@[simp] theorem wrap_border : (wrap s).border = s.border := rfl
@[simp] theorem wrap_earmic : (wrap s).earmic = s.earmic := rfl
@[simp] theorem wrap_paging : (wrap s).paging = s.paging := rfl
@[simp] theorem wrap_mode : (wrap s).mode = s.mode := rfl
@[simp] theorem wrap_hsr : (wrap s).hsr = s.hsr := rfl
@[simp] theorem wrap_slots : (wrap s).slots = s.slots := rfl
@[simp] theorem wrap_logs : (wrap s).logs = ⟨SubLog.fresh (eff s .border), SubLog.fresh (eff s .mode), SubLog.fresh (eff s .shadow), SubLog.fresh (eff s .source)⟩ := rfl
@[simp] theorem wrap_lastLogTs : (wrap s).lastLogTs = 0 := rfl
@[simp] theorem wrap_dev : (wrap s).dev = s.dev := rfl
@[simp] theorem wrap_ram : (wrap s).ram = s.ram := rfl
@[simp] theorem wrap_ramGen : (wrap s).ramGen = s.ramGen := rfl
@[simp] theorem wrap_draws : (wrap s).draws = s.draws := rfl
@[simp] theorem wrap_value : (wrap s).value = s.value := rfl
@[simp] theorem wrap_blob : (wrap s).blob = s.blob := rfl
@[simp] theorem wrap_busReply : (wrap s).busReply = s.busReply := rfl
@[simp] theorem wrap_calls : (wrap s).calls = .clearRenderingCache :: s.calls := rfl
@[simp] theorem wrap_payload : (wrap s).payload = s.payload := rfl
@[simp] theorem wrap_pend : (wrap s).pend = s.pend := rfl
@[simp] theorem wrap_hostIn : (wrap s).hostIn = s.hostIn := rfl
@[simp] theorem wrap_cpuIn : (wrap s).cpuIn = s.cpuIn := rfl
@[simp] theorem wrap_devIn : (wrap s).devIn = s.devIn := rfl

end

section
variable (s : State)

@[simp] theorem hardReset_cfg : (hardReset s).cfg = s.cfg := rfl
@[simp] theorem hardReset_tsc : (hardReset s).tsc = s.tsc := rfl
@[simp] theorem hardReset_frames : (hardReset s).frames = s.frames := rfl
@[simp] theorem hardReset_ctrl : (hardReset s).ctrl = s.ctrl := rfl
@[simp] theorem hardReset_busy : (hardReset s).busy = s.busy := rfl
@[simp] theorem hardReset_stepStart : (hardReset s).stepStart = s.stepStart := rfl
@[simp] theorem hardReset_lastBusTs : (hardReset s).lastBusTs = s.lastBusTs := rfl
@[simp] theorem hardReset_busUsed : (hardReset s).busUsed = s.busUsed := rfl
@[simp] theorem hardReset_waitsGiven : (hardReset s).waitsGiven = s.waitsGiven := rfl
@[simp] theorem hardReset_nmiClaimed : (hardReset s).nmiClaimed = s.nmiClaimed := rfl
@[simp] theorem hardReset_nmiAccepted : (hardReset s).nmiAccepted = s.nmiAccepted := rfl
@[simp] theorem hardReset_refused : (hardReset s).refused = s.refused := rfl
@[simp] theorem hardReset_result : (hardReset s).result = s.result := rfl
@[simp] theorem hardReset_fault : (hardReset s).fault = s.fault := rfl
@[simp] theorem hardReset_border : (hardReset s).border = 0 := rfl
@[simp] theorem hardReset_earmic : (hardReset s).earmic = 0 := rfl
@[simp] theorem hardReset_paging : (hardReset s).paging = 0 := rfl
@[simp] theorem hardReset_mode : (hardReset s).mode = 0 := rfl
@[simp] theorem hardReset_hsr : (hardReset s).hsr = 0 := rfl
@[simp] theorem hardReset_slots : (hardReset s).slots = s.slots := rfl
@[simp] theorem hardReset_logs : (hardReset s).logs = s.logs := rfl
@[simp] theorem hardReset_lastLogTs : (hardReset s).lastLogTs = s.lastLogTs := rfl
@[simp] theorem hardReset_dev : (hardReset s).dev = s.dev := rfl
@[simp] theorem hardReset_ram : (hardReset s).ram = s.ram := rfl
@[simp] theorem hardReset_ramGen : (hardReset s).ramGen = s.ramGen := rfl
@[simp] theorem hardReset_draws : (hardReset s).draws = s.draws := rfl
@[simp] theorem hardReset_value : (hardReset s).value = s.value := rfl
@[simp] theorem hardReset_blob : (hardReset s).blob = s.blob := rfl
@[simp] theorem hardReset_busReply : (hardReset s).busReply = s.busReply := rfl
@[simp] theorem hardReset_calls : (hardReset s).calls = s.calls := rfl
@[simp] theorem hardReset_payload : (hardReset s).payload = s.payload := rfl
@[simp] theorem hardReset_pend : (hardReset s).pend = s.pend := rfl
@[simp] theorem hardReset_hostIn : (hardReset s).hostIn = s.hostIn := rfl
@[simp] theorem hardReset_cpuIn : (hardReset s).cpuIn = s.cpuIn := rfl
@[simp] theorem hardReset_devIn : (hardReset s).devIn = s.devIn := rfl

end

section
variable (s : State)

@[simp] theorem softReset_cfg : (softReset s).cfg = s.cfg := rfl
@[simp] theorem softReset_tsc : (softReset s).tsc = s.tsc := rfl
@[simp] theorem softReset_frames : (softReset s).frames = s.frames := rfl
@[simp] theorem softReset_ctrl : (softReset s).ctrl = s.ctrl := rfl
@[simp] theorem softReset_busy : (softReset s).busy = s.busy := rfl
@[simp] theorem softReset_stepStart : (softReset s).stepStart = s.stepStart := rfl
@[simp] theorem softReset_lastBusTs : (softReset s).lastBusTs = s.lastBusTs := rfl
@[simp] theorem softReset_busUsed : (softReset s).busUsed = s.busUsed := rfl
@[simp] theorem softReset_waitsGiven : (softReset s).waitsGiven = s.waitsGiven := rfl
@[simp] theorem softReset_nmiClaimed : (softReset s).nmiClaimed = s.nmiClaimed := rfl
@[simp] theorem softReset_nmiAccepted : (softReset s).nmiAccepted = s.nmiAccepted := rfl
@[simp] theorem softReset_refused : (softReset s).refused = s.refused := rfl
@[simp] theorem softReset_result : (softReset s).result = s.result := rfl
@[simp] theorem softReset_fault : (softReset s).fault = s.fault := rfl
@[simp] theorem softReset_border : (softReset s).border = 0 := rfl
@[simp] theorem softReset_earmic : (softReset s).earmic = 0 := rfl
@[simp] theorem softReset_paging : (softReset s).paging = s.paging := rfl
@[simp] theorem softReset_mode : (softReset s).mode = if s.cfg.variant = .scld then BitVec.ofBool (poolSel s) ++ (0 : BitVec 7) else s.mode := rfl
@[simp] theorem softReset_hsr : (softReset s).hsr = s.hsr := rfl
@[simp] theorem softReset_slots : (softReset s).slots = s.slots := rfl
@[simp] theorem softReset_logs : (softReset s).logs = s.logs := rfl
@[simp] theorem softReset_lastLogTs : (softReset s).lastLogTs = s.lastLogTs := rfl
@[simp] theorem softReset_dev : (softReset s).dev = s.dev := rfl
@[simp] theorem softReset_ram : (softReset s).ram = s.ram := rfl
@[simp] theorem softReset_ramGen : (softReset s).ramGen = s.ramGen := rfl
@[simp] theorem softReset_draws : (softReset s).draws = s.draws := rfl
@[simp] theorem softReset_value : (softReset s).value = s.value := rfl
@[simp] theorem softReset_blob : (softReset s).blob = s.blob := rfl
@[simp] theorem softReset_busReply : (softReset s).busReply = s.busReply := rfl
@[simp] theorem softReset_calls : (softReset s).calls = s.calls := rfl
@[simp] theorem softReset_payload : (softReset s).payload = s.payload := rfl
@[simp] theorem softReset_pend : (softReset s).pend = s.pend := rfl
@[simp] theorem softReset_hostIn : (softReset s).hostIn = s.hostIn := rfl
@[simp] theorem softReset_cpuIn : (softReset s).cpuIn = s.cpuIn := rfl
@[simp] theorem softReset_devIn : (softReset s).devIn = s.devIn := rfl

end

section
variable (v : Byte) (s : State)

@[simp] theorem writeUla_cfg : (writeUla v s).cfg = s.cfg := rfl
@[simp] theorem writeUla_tsc : (writeUla v s).tsc = s.tsc := rfl
@[simp] theorem writeUla_frames : (writeUla v s).frames = s.frames := rfl
@[simp] theorem writeUla_ctrl : (writeUla v s).ctrl = s.ctrl := rfl
@[simp] theorem writeUla_busy : (writeUla v s).busy = s.busy := rfl
@[simp] theorem writeUla_stepStart : (writeUla v s).stepStart = s.stepStart := rfl
@[simp] theorem writeUla_lastBusTs : (writeUla v s).lastBusTs = s.lastBusTs := rfl
@[simp] theorem writeUla_busUsed : (writeUla v s).busUsed = s.busUsed := rfl
@[simp] theorem writeUla_waitsGiven : (writeUla v s).waitsGiven = s.waitsGiven := rfl
@[simp] theorem writeUla_nmiClaimed : (writeUla v s).nmiClaimed = s.nmiClaimed := rfl
@[simp] theorem writeUla_nmiAccepted : (writeUla v s).nmiAccepted = s.nmiAccepted := rfl
@[simp] theorem writeUla_refused : (writeUla v s).refused = s.refused := rfl
@[simp] theorem writeUla_result : (writeUla v s).result = s.result := rfl
@[simp] theorem writeUla_fault : (writeUla v s).fault = s.fault := rfl
@[simp] theorem writeUla_border : (writeUla v s).border = v.extractLsb' 0 3 := rfl
@[simp] theorem writeUla_earmic : (writeUla v s).earmic = v.extractLsb' 3 2 := rfl
@[simp] theorem writeUla_paging : (writeUla v s).paging = s.paging := rfl
@[simp] theorem writeUla_mode : (writeUla v s).mode = s.mode := rfl
@[simp] theorem writeUla_hsr : (writeUla v s).hsr = s.hsr := rfl
@[simp] theorem writeUla_slots : (writeUla v s).slots = s.slots := rfl
@[simp] theorem writeUla_logs : (writeUla v s).logs = s.logs := rfl
@[simp] theorem writeUla_lastLogTs : (writeUla v s).lastLogTs = s.lastLogTs := rfl
@[simp] theorem writeUla_dev : (writeUla v s).dev = s.dev := rfl
@[simp] theorem writeUla_ram : (writeUla v s).ram = s.ram := rfl
@[simp] theorem writeUla_ramGen : (writeUla v s).ramGen = s.ramGen := rfl
@[simp] theorem writeUla_draws : (writeUla v s).draws = s.draws := rfl
@[simp] theorem writeUla_value : (writeUla v s).value = s.value := rfl
@[simp] theorem writeUla_blob : (writeUla v s).blob = s.blob := rfl
@[simp] theorem writeUla_busReply : (writeUla v s).busReply = s.busReply := rfl
@[simp] theorem writeUla_calls : (writeUla v s).calls = s.calls := rfl
@[simp] theorem writeUla_payload : (writeUla v s).payload = s.payload := rfl
@[simp] theorem writeUla_pend : (writeUla v s).pend = s.pend := rfl
@[simp] theorem writeUla_hostIn : (writeUla v s).hostIn = s.hostIn := rfl
@[simp] theorem writeUla_cpuIn : (writeUla v s).cpuIn = s.cpuIn := rfl
@[simp] theorem writeUla_devIn : (writeUla v s).devIn = s.devIn := rfl

end

section
variable (k : Nat) (x : Device) (s : State)

@[simp] theorem insertDev_cfg : (insertDev k x s).cfg = s.cfg := rfl
@[simp] theorem insertDev_tsc : (insertDev k x s).tsc = s.tsc := rfl
@[simp] theorem insertDev_frames : (insertDev k x s).frames = s.frames := rfl
@[simp] theorem insertDev_ctrl : (insertDev k x s).ctrl = s.ctrl := rfl
@[simp] theorem insertDev_busy : (insertDev k x s).busy = s.busy := rfl
@[simp] theorem insertDev_stepStart : (insertDev k x s).stepStart = s.stepStart := rfl
@[simp] theorem insertDev_lastBusTs : (insertDev k x s).lastBusTs = s.lastBusTs := rfl
@[simp] theorem insertDev_busUsed : (insertDev k x s).busUsed = s.busUsed := rfl
@[simp] theorem insertDev_waitsGiven : (insertDev k x s).waitsGiven = s.waitsGiven := rfl
@[simp] theorem insertDev_nmiClaimed : (insertDev k x s).nmiClaimed = s.nmiClaimed := rfl
@[simp] theorem insertDev_nmiAccepted : (insertDev k x s).nmiAccepted = s.nmiAccepted := rfl
@[simp] theorem insertDev_refused : (insertDev k x s).refused = s.refused := rfl
@[simp] theorem insertDev_result : (insertDev k x s).result = s.result := rfl
@[simp] theorem insertDev_fault : (insertDev k x s).fault = s.fault := rfl
@[simp] theorem insertDev_border : (insertDev k x s).border = s.border := rfl
@[simp] theorem insertDev_earmic : (insertDev k x s).earmic = s.earmic := rfl
@[simp] theorem insertDev_paging : (insertDev k x s).paging = s.paging := rfl
@[simp] theorem insertDev_mode : (insertDev k x s).mode = s.mode := rfl
@[simp] theorem insertDev_hsr : (insertDev k x s).hsr = s.hsr := rfl
@[simp] theorem insertDev_slots : (insertDev k x s).slots = s.slots := rfl
@[simp] theorem insertDev_logs : (insertDev k x s).logs = s.logs := rfl
@[simp] theorem insertDev_lastLogTs : (insertDev k x s).lastLogTs = s.lastLogTs := rfl
@[simp] theorem insertDev_dev : (insertDev k x s).dev = s.dev.take k ++ x :: s.dev.drop k := rfl
@[simp] theorem insertDev_ram : (insertDev k x s).ram = s.ram := rfl
@[simp] theorem insertDev_ramGen : (insertDev k x s).ramGen = s.ramGen := rfl
@[simp] theorem insertDev_draws : (insertDev k x s).draws = s.draws := rfl
@[simp] theorem insertDev_value : (insertDev k x s).value = s.value := rfl
@[simp] theorem insertDev_blob : (insertDev k x s).blob = s.blob := rfl
@[simp] theorem insertDev_busReply : (insertDev k x s).busReply = s.busReply := rfl
@[simp] theorem insertDev_calls : (insertDev k x s).calls = s.calls := rfl
@[simp] theorem insertDev_payload : (insertDev k x s).payload = s.payload := rfl
@[simp] theorem insertDev_pend : (insertDev k x s).pend = s.pend := rfl
@[simp] theorem insertDev_hostIn : (insertDev k x s).hostIn = s.hostIn := rfl
@[simp] theorem insertDev_cpuIn : (insertDev k x s).cpuIn = s.cpuIn := rfl
@[simp] theorem insertDev_devIn : (insertDev k x s).devIn = s.devIn := rfl

end

section
variable (ts : Stamp) (s : State)

@[simp] theorem atBus_cfg : (s.atBus ts).cfg = s.cfg := rfl
@[simp] theorem atBus_tsc : (s.atBus ts).tsc = s.tsc := rfl
@[simp] theorem atBus_frames : (s.atBus ts).frames = s.frames := rfl
@[simp] theorem atBus_ctrl : (s.atBus ts).ctrl = s.ctrl := rfl
@[simp] theorem atBus_busy : (s.atBus ts).busy = s.busy := rfl
@[simp] theorem atBus_stepStart : (s.atBus ts).stepStart = s.stepStart := rfl
@[simp] theorem atBus_lastBusTs : (s.atBus ts).lastBusTs = ts := rfl
@[simp] theorem atBus_busUsed : (s.atBus ts).busUsed = true := rfl
@[simp] theorem atBus_waitsGiven : (s.atBus ts).waitsGiven = s.waitsGiven := rfl
@[simp] theorem atBus_nmiClaimed : (s.atBus ts).nmiClaimed = s.nmiClaimed := rfl
@[simp] theorem atBus_nmiAccepted : (s.atBus ts).nmiAccepted = s.nmiAccepted := rfl
@[simp] theorem atBus_refused : (s.atBus ts).refused = s.refused := rfl
@[simp] theorem atBus_result : (s.atBus ts).result = s.result := rfl
@[simp] theorem atBus_fault : (s.atBus ts).fault = s.fault := rfl
@[simp] theorem atBus_border : (s.atBus ts).border = s.border := rfl
@[simp] theorem atBus_earmic : (s.atBus ts).earmic = s.earmic := rfl
@[simp] theorem atBus_paging : (s.atBus ts).paging = s.paging := rfl
@[simp] theorem atBus_mode : (s.atBus ts).mode = s.mode := rfl
@[simp] theorem atBus_hsr : (s.atBus ts).hsr = s.hsr := rfl
@[simp] theorem atBus_slots : (s.atBus ts).slots = s.slots := rfl
@[simp] theorem atBus_logs : (s.atBus ts).logs = s.logs := rfl
@[simp] theorem atBus_lastLogTs : (s.atBus ts).lastLogTs = s.lastLogTs := rfl
@[simp] theorem atBus_dev : (s.atBus ts).dev = s.dev := rfl
@[simp] theorem atBus_ram : (s.atBus ts).ram = s.ram := rfl
@[simp] theorem atBus_ramGen : (s.atBus ts).ramGen = s.ramGen := rfl
@[simp] theorem atBus_draws : (s.atBus ts).draws = s.draws := rfl
@[simp] theorem atBus_value : (s.atBus ts).value = s.value := rfl
@[simp] theorem atBus_blob : (s.atBus ts).blob = s.blob := rfl
@[simp] theorem atBus_busReply : (s.atBus ts).busReply = s.busReply := rfl
@[simp] theorem atBus_calls : (s.atBus ts).calls = s.calls := rfl
@[simp] theorem atBus_payload : (s.atBus ts).payload = s.payload := rfl
@[simp] theorem atBus_pend : (s.atBus ts).pend = s.pend := rfl
@[simp] theorem atBus_hostIn : (s.atBus ts).hostIn = s.hostIn := rfl
@[simp] theorem atBus_cpuIn : (s.atBus ts).cpuIn = s.cpuIn := rfl
@[simp] theorem atBus_devIn : (s.atBus ts).devIn = s.devIn := rfl

end

section
variable (b : FaultBit) (s : State)

@[simp] theorem raise_cfg : (raise b s).cfg = s.cfg := by unfold raise; split <;> rfl
@[simp] theorem raise_tsc : (raise b s).tsc = s.tsc := by unfold raise; split <;> rfl
@[simp] theorem raise_frames : (raise b s).frames = s.frames := by unfold raise; split <;> rfl
@[simp] theorem raise_busy : (raise b s).busy = s.busy := by unfold raise; split <;> rfl
@[simp] theorem raise_stepStart : (raise b s).stepStart = s.stepStart := by unfold raise; split <;> rfl
@[simp] theorem raise_lastBusTs : (raise b s).lastBusTs = s.lastBusTs := by unfold raise; split <;> rfl
@[simp] theorem raise_busUsed : (raise b s).busUsed = s.busUsed := by unfold raise; split <;> rfl
@[simp] theorem raise_waitsGiven : (raise b s).waitsGiven = s.waitsGiven := by unfold raise; split <;> rfl
@[simp] theorem raise_nmiClaimed : (raise b s).nmiClaimed = s.nmiClaimed := by unfold raise; split <;> rfl
@[simp] theorem raise_nmiAccepted : (raise b s).nmiAccepted = s.nmiAccepted := by unfold raise; split <;> rfl
@[simp] theorem raise_refused : (raise b s).refused = s.refused := by unfold raise; split <;> rfl
@[simp] theorem raise_border : (raise b s).border = s.border := by unfold raise; split <;> rfl
@[simp] theorem raise_earmic : (raise b s).earmic = s.earmic := by unfold raise; split <;> rfl
@[simp] theorem raise_paging : (raise b s).paging = s.paging := by unfold raise; split <;> rfl
@[simp] theorem raise_mode : (raise b s).mode = s.mode := by unfold raise; split <;> rfl
@[simp] theorem raise_hsr : (raise b s).hsr = s.hsr := by unfold raise; split <;> rfl
@[simp] theorem raise_slots : (raise b s).slots = s.slots := by unfold raise; split <;> rfl
@[simp] theorem raise_logs : (raise b s).logs = s.logs := by unfold raise; split <;> rfl
@[simp] theorem raise_lastLogTs : (raise b s).lastLogTs = s.lastLogTs := by unfold raise; split <;> rfl
@[simp] theorem raise_dev : (raise b s).dev = s.dev := by unfold raise; split <;> rfl
@[simp] theorem raise_ram : (raise b s).ram = s.ram := by unfold raise; split <;> rfl
@[simp] theorem raise_ramGen : (raise b s).ramGen = s.ramGen := by unfold raise; split <;> rfl
@[simp] theorem raise_draws : (raise b s).draws = s.draws := by unfold raise; split <;> rfl
@[simp] theorem raise_blob : (raise b s).blob = s.blob := by unfold raise; split <;> rfl
@[simp] theorem raise_busReply : (raise b s).busReply = s.busReply := by unfold raise; split <;> rfl
@[simp] theorem raise_calls : (raise b s).calls = s.calls := by unfold raise; split <;> rfl
@[simp] theorem raise_payload : (raise b s).payload = s.payload := by unfold raise; split <;> rfl
@[simp] theorem raise_pend : (raise b s).pend = s.pend := by unfold raise; split <;> rfl
@[simp] theorem raise_hostIn : (raise b s).hostIn = s.hostIn := by unfold raise; split <;> rfl
@[simp] theorem raise_cpuIn : (raise b s).cpuIn = s.cpuIn := by unfold raise; split <;> rfl
@[simp] theorem raise_devIn : (raise b s).devIn = s.devIn := by unfold raise; split <;> rfl

/-- A fault always leaves the instance FAULTED (R412). -/
@[simp] theorem raise_ctrl : (raise b s).ctrl = .faulted := by unfold raise; split <;> simp_all

end

section
variable (r : Result) (v : BitVec 64) (s : State)

@[simp] theorem endCmd_cfg : (endCmd r v s).cfg = s.cfg := by unfold endCmd; split <;> rfl
@[simp] theorem endCmd_tsc : (endCmd r v s).tsc = s.tsc := by unfold endCmd; split <;> rfl
@[simp] theorem endCmd_frames : (endCmd r v s).frames = s.frames := by unfold endCmd; split <;> rfl
@[simp] theorem endCmd_busy : (endCmd r v s).busy = false := by unfold endCmd; split <;> rfl
@[simp] theorem endCmd_stepStart : (endCmd r v s).stepStart = s.stepStart := by unfold endCmd; split <;> rfl
@[simp] theorem endCmd_lastBusTs : (endCmd r v s).lastBusTs = s.lastBusTs := by unfold endCmd; split <;> rfl
@[simp] theorem endCmd_busUsed : (endCmd r v s).busUsed = s.busUsed := by unfold endCmd; split <;> rfl
@[simp] theorem endCmd_waitsGiven : (endCmd r v s).waitsGiven = s.waitsGiven := by unfold endCmd; split <;> rfl
@[simp] theorem endCmd_nmiClaimed : (endCmd r v s).nmiClaimed = s.nmiClaimed := by unfold endCmd; split <;> rfl
@[simp] theorem endCmd_nmiAccepted : (endCmd r v s).nmiAccepted = s.nmiAccepted := by unfold endCmd; split <;> rfl
@[simp] theorem endCmd_refused : (endCmd r v s).refused = s.refused := by unfold endCmd; split <;> rfl
@[simp] theorem endCmd_fault : (endCmd r v s).fault = s.fault := by unfold endCmd; split <;> rfl
@[simp] theorem endCmd_border : (endCmd r v s).border = s.border := by unfold endCmd; split <;> rfl
@[simp] theorem endCmd_earmic : (endCmd r v s).earmic = s.earmic := by unfold endCmd; split <;> rfl
@[simp] theorem endCmd_paging : (endCmd r v s).paging = s.paging := by unfold endCmd; split <;> rfl
@[simp] theorem endCmd_mode : (endCmd r v s).mode = s.mode := by unfold endCmd; split <;> rfl
@[simp] theorem endCmd_hsr : (endCmd r v s).hsr = s.hsr := by unfold endCmd; split <;> rfl
@[simp] theorem endCmd_slots : (endCmd r v s).slots = s.slots := by unfold endCmd; split <;> rfl
@[simp] theorem endCmd_logs : (endCmd r v s).logs = s.logs := by unfold endCmd; split <;> rfl
@[simp] theorem endCmd_lastLogTs : (endCmd r v s).lastLogTs = s.lastLogTs := by unfold endCmd; split <;> rfl
@[simp] theorem endCmd_dev : (endCmd r v s).dev = s.dev := by unfold endCmd; split <;> rfl
@[simp] theorem endCmd_ram : (endCmd r v s).ram = s.ram := by unfold endCmd; split <;> rfl
@[simp] theorem endCmd_ramGen : (endCmd r v s).ramGen = s.ramGen := by unfold endCmd; split <;> rfl
@[simp] theorem endCmd_draws : (endCmd r v s).draws = s.draws := by unfold endCmd; split <;> rfl
@[simp] theorem endCmd_blob : (endCmd r v s).blob = s.blob := by unfold endCmd; split <;> rfl
@[simp] theorem endCmd_busReply : (endCmd r v s).busReply = s.busReply := by unfold endCmd; split <;> rfl
@[simp] theorem endCmd_calls : (endCmd r v s).calls = s.calls := by unfold endCmd; split <;> rfl
@[simp] theorem endCmd_payload : (endCmd r v s).payload = s.payload := by unfold endCmd; split <;> rfl
@[simp] theorem endCmd_pend : (endCmd r v s).pend = .idle := by unfold endCmd; split <;> rfl
@[simp] theorem endCmd_hostIn : (endCmd r v s).hostIn = s.hostIn := by unfold endCmd; split <;> rfl
@[simp] theorem endCmd_cpuIn : (endCmd r v s).cpuIn = s.cpuIn := by unfold endCmd; split <;> rfl
@[simp] theorem endCmd_devIn : (endCmd r v s).devIn = s.devIn := by unfold endCmd; split <;> rfl

end

section
variable (s : State)

@[simp] theorem drawFloating_cfg : (drawFloating s).2.cfg = s.cfg := rfl
@[simp] theorem drawFloating_tsc : (drawFloating s).2.tsc = s.tsc := rfl
@[simp] theorem drawFloating_frames : (drawFloating s).2.frames = s.frames := rfl
@[simp] theorem drawFloating_ctrl : (drawFloating s).2.ctrl = s.ctrl := rfl
@[simp] theorem drawFloating_busy : (drawFloating s).2.busy = s.busy := rfl
@[simp] theorem drawFloating_stepStart : (drawFloating s).2.stepStart = s.stepStart := rfl
@[simp] theorem drawFloating_lastBusTs : (drawFloating s).2.lastBusTs = s.lastBusTs := rfl
@[simp] theorem drawFloating_busUsed : (drawFloating s).2.busUsed = s.busUsed := rfl
@[simp] theorem drawFloating_waitsGiven : (drawFloating s).2.waitsGiven = s.waitsGiven := rfl
@[simp] theorem drawFloating_nmiClaimed : (drawFloating s).2.nmiClaimed = s.nmiClaimed := rfl
@[simp] theorem drawFloating_nmiAccepted : (drawFloating s).2.nmiAccepted = s.nmiAccepted := rfl
@[simp] theorem drawFloating_refused : (drawFloating s).2.refused = s.refused := rfl
@[simp] theorem drawFloating_result : (drawFloating s).2.result = s.result := rfl
@[simp] theorem drawFloating_fault : (drawFloating s).2.fault = s.fault := rfl
@[simp] theorem drawFloating_border : (drawFloating s).2.border = s.border := rfl
@[simp] theorem drawFloating_earmic : (drawFloating s).2.earmic = s.earmic := rfl
@[simp] theorem drawFloating_paging : (drawFloating s).2.paging = s.paging := rfl
@[simp] theorem drawFloating_mode : (drawFloating s).2.mode = s.mode := rfl
@[simp] theorem drawFloating_hsr : (drawFloating s).2.hsr = s.hsr := rfl
@[simp] theorem drawFloating_slots : (drawFloating s).2.slots = s.slots := rfl
@[simp] theorem drawFloating_logs : (drawFloating s).2.logs = s.logs := rfl
@[simp] theorem drawFloating_lastLogTs : (drawFloating s).2.lastLogTs = s.lastLogTs := rfl
@[simp] theorem drawFloating_dev : (drawFloating s).2.dev = s.dev := rfl
@[simp] theorem drawFloating_ram : (drawFloating s).2.ram = s.ram := rfl
@[simp] theorem drawFloating_ramGen : (drawFloating s).2.ramGen = s.ramGen := rfl
@[simp] theorem drawFloating_draws : (drawFloating s).2.draws = s.draws + 1 := rfl
@[simp] theorem drawFloating_value : (drawFloating s).2.value = s.value := rfl
@[simp] theorem drawFloating_blob : (drawFloating s).2.blob = s.blob := rfl
@[simp] theorem drawFloating_busReply : (drawFloating s).2.busReply = s.busReply := rfl
@[simp] theorem drawFloating_calls : (drawFloating s).2.calls = s.calls := rfl
@[simp] theorem drawFloating_payload : (drawFloating s).2.payload = s.payload := rfl
@[simp] theorem drawFloating_pend : (drawFloating s).2.pend = s.pend := rfl
@[simp] theorem drawFloating_hostIn : (drawFloating s).2.hostIn = s.hostIn := rfl
@[simp] theorem drawFloating_cpuIn : (drawFloating s).2.cpuIn = s.cpuIn := rfl
@[simp] theorem drawFloating_devIn : (drawFloating s).2.devIn = s.devIn := rfl

end

section
variable (s : State)

@[simp] theorem drawUlaInput_cfg : (drawUlaInput s).2.cfg = s.cfg := rfl
@[simp] theorem drawUlaInput_tsc : (drawUlaInput s).2.tsc = s.tsc := rfl
@[simp] theorem drawUlaInput_frames : (drawUlaInput s).2.frames = s.frames := rfl
@[simp] theorem drawUlaInput_ctrl : (drawUlaInput s).2.ctrl = s.ctrl := rfl
@[simp] theorem drawUlaInput_busy : (drawUlaInput s).2.busy = s.busy := rfl
@[simp] theorem drawUlaInput_stepStart : (drawUlaInput s).2.stepStart = s.stepStart := rfl
@[simp] theorem drawUlaInput_lastBusTs : (drawUlaInput s).2.lastBusTs = s.lastBusTs := rfl
@[simp] theorem drawUlaInput_busUsed : (drawUlaInput s).2.busUsed = s.busUsed := rfl
@[simp] theorem drawUlaInput_waitsGiven : (drawUlaInput s).2.waitsGiven = s.waitsGiven := rfl
@[simp] theorem drawUlaInput_nmiClaimed : (drawUlaInput s).2.nmiClaimed = s.nmiClaimed := rfl
@[simp] theorem drawUlaInput_nmiAccepted : (drawUlaInput s).2.nmiAccepted = s.nmiAccepted := rfl
@[simp] theorem drawUlaInput_refused : (drawUlaInput s).2.refused = s.refused := rfl
@[simp] theorem drawUlaInput_result : (drawUlaInput s).2.result = s.result := rfl
@[simp] theorem drawUlaInput_fault : (drawUlaInput s).2.fault = s.fault := rfl
@[simp] theorem drawUlaInput_border : (drawUlaInput s).2.border = s.border := rfl
@[simp] theorem drawUlaInput_earmic : (drawUlaInput s).2.earmic = s.earmic := rfl
@[simp] theorem drawUlaInput_paging : (drawUlaInput s).2.paging = s.paging := rfl
@[simp] theorem drawUlaInput_mode : (drawUlaInput s).2.mode = s.mode := rfl
@[simp] theorem drawUlaInput_hsr : (drawUlaInput s).2.hsr = s.hsr := rfl
@[simp] theorem drawUlaInput_slots : (drawUlaInput s).2.slots = s.slots := rfl
@[simp] theorem drawUlaInput_logs : (drawUlaInput s).2.logs = s.logs := rfl
@[simp] theorem drawUlaInput_lastLogTs : (drawUlaInput s).2.lastLogTs = s.lastLogTs := rfl
@[simp] theorem drawUlaInput_dev : (drawUlaInput s).2.dev = s.dev := rfl
@[simp] theorem drawUlaInput_ram : (drawUlaInput s).2.ram = s.ram := rfl
@[simp] theorem drawUlaInput_ramGen : (drawUlaInput s).2.ramGen = s.ramGen := rfl
@[simp] theorem drawUlaInput_draws : (drawUlaInput s).2.draws = s.draws + 1 := rfl
@[simp] theorem drawUlaInput_value : (drawUlaInput s).2.value = s.value := rfl
@[simp] theorem drawUlaInput_blob : (drawUlaInput s).2.blob = s.blob := rfl
@[simp] theorem drawUlaInput_busReply : (drawUlaInput s).2.busReply = s.busReply := rfl
@[simp] theorem drawUlaInput_calls : (drawUlaInput s).2.calls = s.calls := rfl
@[simp] theorem drawUlaInput_payload : (drawUlaInput s).2.payload = s.payload := rfl
@[simp] theorem drawUlaInput_pend : (drawUlaInput s).2.pend = s.pend := rfl
@[simp] theorem drawUlaInput_hostIn : (drawUlaInput s).2.hostIn = s.hostIn := rfl
@[simp] theorem drawUlaInput_cpuIn : (drawUlaInput s).2.cpuIn = s.cpuIn := rfl
@[simp] theorem drawUlaInput_devIn : (drawUlaInput s).2.devIn = s.devIn := rfl

end

end Sys2Proof.Machine
end

