-- ==== Sys2Proof/Laws/Ops.lean ====
section
/-! SUPPORT. What each shared operation can do, said once: frames, and the cases of the operations that can fault. -/

namespace Sys2Proof.Machine

theorem raise_of_faulted {b : FaultBit} {s : State} (h : s.ctrl = .faulted) : raise b s = s := by simp [raise, h]

theorem raise_of_not_faulted {b : FaultBit} {s : State} (h : s.ctrl ≠ .faulted) :
    raise b s = { s with fault := s.fault ||| faultMask b, ctrl := .faulted, result := .faulted, value := 0 } := by
  simp [raise, h]

theorem unlessFaulted_of_faulted {f : State → State} {s : State} (h : s.ctrl = .faulted) : unlessFaulted f s = s := by
  simp [unlessFaulted, h]

theorem unlessFaulted_of_not {f : State → State} {s : State} (h : s.ctrl ≠ .faulted) : unlessFaulted f s = f s := by
  simp [unlessFaulted, h]

theorem endCmd_of_faulted {r : Result} {v : BitVec 64} {s : State} (h : s.ctrl = .faulted) :
    endCmd r v s = stopCmd s := by simp [endCmd, h]

theorem endCmd_of_not {r : Result} {v : BitVec 64} {s : State} (h : s.ctrl ≠ .faulted) :
    endCmd r v s = finish r v s := by simp [endCmd, h]

/-- What accepting a command does (R191), in its order of checks (R420). -/
theorem accept_cases (legal : Bool) (f : State → State) (s : State) :
    (s.busy = true ∧ accept legal f s = raise .reentrant s) ∨
    (s.busy = false ∧ s.ctrl = .faulted ∧ accept legal f s = refuseFaulted s) ∨
    (s.Ready ∧ legal = false ∧ accept legal f s = refuseCmd s) ∨
    (s.Ready ∧ legal = true ∧ accept legal f s = f { s with busy := true }) := by
  unfold accept
  cases hb : s.busy <;> by_cases hf : s.ctrl = .faulted <;> cases legal <;> simp [State.Ready, hf, hb]

/-- A ready instance performs a legal command. -/
theorem accept_ready {f : State → State} {s : State} (h : s.Ready) : accept true f s = f { s with busy := true } := by
  simp [accept, h.1, h.2]

/-- What RDREG's acceptance does (R191). -/
theorem acceptRead_cases (legal : Bool) (f : State → State) (s : State) :
    (s.busy = true ∧ acceptRead legal f s = raise .reentrant s) ∨
    (s.busy = false ∧ legal = false ∧ acceptRead legal f s = refuseCmd s) ∨
    (s.busy = false ∧ legal = true ∧ acceptRead legal f s = f s) := by
  unfold acceptRead
  cases s.busy <;> cases legal <;> simp

/-- The ids are all of them (R133). -/
theorem mem_logIds (id : LogId) : id ∈ logIds := by cases id <;> decide

/-- The room a `note` needs, sub-log by sub-log (R292). -/
theorem logRoom_iff (s : State) (ts : Stamp) :
    s.LogRoom ts ↔ ∀ id, recorded s id = true →
      s.lastLogTs.toNat ≤ ts.toNat ∧ (logOf s.logs id).entries.length < s.cfg.logCapacity :=
  ⟨fun h id => h id (mem_logIds id), fun h id _ => h id⟩

/-- What an append does (R292). -/
theorem logAppend_cases (id : LogId) (ts : Stamp) (v : BitVec 16) (s : State) :
    (ts.toNat < s.lastLogTs.toNat ∧ logAppend id ts v s = raise .tsOrder s) ∨
    (s.lastLogTs.toNat ≤ ts.toNat ∧ (logOf s.logs id).entries.length = s.cfg.logCapacity ∧
      logAppend id ts v s = raise .logOverflow s) ∨
    (s.lastLogTs.toNat ≤ ts.toNat ∧ (logOf s.logs id).entries.length ≠ s.cfg.logCapacity ∧
      logAppend id ts v s =
        { s with
          logs := setLog s.logs id
            { logOf s.logs id with last := v, entries := (logOf s.logs id).entries ++ [⟨ts, v⟩] }
          lastLogTs := ts }) := by
  unfold logAppend
  split
  · exact .inl ⟨by assumption, rfl⟩
  · split
    · exact .inr (.inl ⟨by omega, by assumption, rfl⟩)
    · exact .inr (.inr ⟨by omega, by assumption, rfl⟩)

/-- What `remap` does (R241, R12). -/
theorem remap_cases (i : Nat) (t : Target) (s : State) :
    (i < s.cfg.slotCount ∧ targetOk s.cfg t = true ∧ targetFits t = true ∧
      remap i t s = { s with slots := s.slots.set i (targetSlot s.cfg t) }) ∨
    (i < s.cfg.slotCount ∧ targetOk s.cfg t = true ∧ targetFits t = false ∧ remap i t s = raise bankFaultBit s) ∨
    (¬ (i < s.cfg.slotCount ∧ targetOk s.cfg t = true) ∧ remap i t s = raise .config s) := by
  unfold remap
  split
  · rename_i h
    cases hf : targetFits t
    · exact .inr (.inl ⟨h.1, h.2, rfl, rfl⟩)
    · exact .inl ⟨h.1, h.2, rfl, rfl⟩
  · rename_i h; exact .inr (.inr ⟨h, rfl⟩)

/-- What `change_mem_paged` does (R248, R12). -/
theorem changeMemPaged_cases (want : Nat → SlotSrc) (s : State) :
    (pagedPlan (targetOk s.cfg) want s = true ∧ pagedPlan targetFits want s = true ∧
      changeMemPaged want s = { s with slots := (List.range s.cfg.slotCount).map (pagedEntry want s) }) ∨
    (pagedPlan (targetOk s.cfg) want s = true ∧ pagedPlan targetFits want s = false ∧
      changeMemPaged want s = raise bankFaultBit s) ∨
    (pagedPlan (targetOk s.cfg) want s = false ∧ changeMemPaged want s = raise .config s) := by
  unfold changeMemPaged
  cases pagedPlan (targetOk s.cfg) want s <;> cases pagedPlan targetFits want s <;> simp

/-- No bank that BANK does not hold raises CONFIG (R350). -/
theorem bankFaultBit_ne_config : bankFaultBit ≠ .config := by
  unfold bankFaultBit
  split <;> decide

/-- What RDREG replies once accepted (R12, R371). -/
theorem replyReg_cases (bits n : Nat) (s : State) :
    (n < 2 ^ bits ∧ replyReg bits n s = finish .ok (val64 n) s) ∨
    (2 ^ bits ≤ n ∧ replyReg bits n s = stopCmd (refuseFaulted (raise .config s))) := by
  unfold replyReg
  split
  · exact .inl ⟨by assumption, rfl⟩
  · exact .inr ⟨by omega, rfl⟩

/-- WAIT holds the waits below 2^32, and no other (R118). -/
theorem waitOf_eq_some {n : Nat} {w : BitVec 32} : waitOf n = some w ↔ n = w.toNat := by
  unfold waitOf
  split
  · rename_i h
    simp only [Option.some.injEq, ← BitVec.toNat_inj, BitVec.toNat_ofNat, Nat.mod_eq_of_lt h]
  · constructor
    · intro h; cases h
    · intro h; have := w.isLt; omega

theorem waitOf_eq_none {n : Nat} : waitOf n = none ↔ 2 ^ 32 ≤ n := by
  unfold waitOf
  split <;> simp <;> omega

/-- What a cycle does with its wait (R12, R118). -/
theorem withWait_cases (wait : Option (BitVec 32)) (perform : BitVec 32 → State → State) (s : State) :
    (∃ w, wait = some w ∧ withWait wait perform s = perform w s) ∨
    (wait = none ∧ withWait wait perform s = busFault .config s) := by
  cases wait with
  | some w => exact .inl ⟨w, rfl, rfl⟩
  | none => exact .inr ⟨rfl, rfl⟩

/-- What the end of SAVE does (R12, R378). -/
theorem saveReturn_cases (cpu : List Byte) (s : State) :
    (cpu.length < 2 ^ 32 ∧ saveReturn cpu s = endCmd .ok 0 { s with blob := snapshot s cpu }) ∨
    (2 ^ 32 ≤ cpu.length ∧ saveReturn cpu s = endCmd .ok 0 (raise .cpuFault s)) := by
  unfold saveReturn
  split
  · exact .inl ⟨by assumption, rfl⟩
  · exact .inr ⟨by omega, rfl⟩

/-- A target that BANK holds is stored with its number (R241). -/
theorem targetSlot_bank {c : Cfg} {t : Target} (h : targetFits t = true) : (targetSlot c t).bank.toNat = t.bank := by
  have := of_decide_eq_true h
  simp [targetSlot, h, Nat.mod_eq_of_lt this]

/-- What the reply of a memory cycle does (R12, R118). -/
theorem answerMem_cases (wait : Option (BitVec 32)) (v : Byte) (s : State) :
    (∃ w, wait = some w ∧ answerMem wait v s = busAnswer w false v s) ∨
    (wait = none ∧ answerMem wait v s = busFault .config s) := withWait_cases wait _ s

/-- Under a valid SCLD record every extension bank is in the ROM pool (R247, R350). -/
theorem exTarget_ok {c : Cfg} (hv : c.valid = true) (hs : c.variant = .scld) (i : Nat) :
    targetOk c (exTarget c i) = true := by
  have hp : c.poolsValid = true := by
    simp only [Cfg.valid, Bool.and_eq_true] at hv
    exact hv.1.1.1.1.1.1.2
  simp only [Cfg.poolsValid, hs, Bool.and_eq_true, decide_eq_true_eq] at hp
  obtain ⟨⟨⟨⟨⟨hpool, hbase⟩, -⟩, -⟩, -⟩, -⟩ := hp
  have hm := Nat.mod_lt i (show 0 < c.exPoolSize by omega)
  exact decide_eq_true (show c.exPoolBase + i % c.exPoolSize < c.romBanks by omega)

@[simp] theorem logOf_setLog_same (l : Logs) (id : LogId) (x : SubLog) : logOf (setLog l id x) id = x := by
  cases id <;> rfl

theorem logOf_setLog_other (l : Logs) {id j : LogId} (x : SubLog) (h : j ≠ id) : logOf (setLog l id x) j = logOf l j := by
  cases id <;> cases j <;> first | rfl | exact absurd rfl h

/-- Everything `logAppend` can change (R292): the log, or a fault raised. -/
theorem logAppend_frame (id : LogId) (ts : Stamp) (v : BitVec 16) (s : State) :
    logAppend id ts v s = { s with fault := (logAppend id ts v s).fault, ctrl := (logAppend id ts v s).ctrl, result := (logAppend id ts v s).result, value := (logAppend id ts v s).value, logs := (logAppend id ts v s).logs, lastLogTs := (logAppend id ts v s).lastLogTs } := by
  unfold logAppend
  split
  · unfold raise; split <;> rfl
  · split
    · unfold raise; split <;> rfl
    · rfl

section
variable (id : LogId) (ts : Stamp) (v : BitVec 16) (s : State)

@[simp] theorem logAppend_cfg : (logAppend id ts v s).cfg = s.cfg := by rw [logAppend_frame]
@[simp] theorem logAppend_tsc : (logAppend id ts v s).tsc = s.tsc := by rw [logAppend_frame]
@[simp] theorem logAppend_frames : (logAppend id ts v s).frames = s.frames := by rw [logAppend_frame]
@[simp] theorem logAppend_busy : (logAppend id ts v s).busy = s.busy := by rw [logAppend_frame]
@[simp] theorem logAppend_stepStart : (logAppend id ts v s).stepStart = s.stepStart := by rw [logAppend_frame]
@[simp] theorem logAppend_lastBusTs : (logAppend id ts v s).lastBusTs = s.lastBusTs := by rw [logAppend_frame]
@[simp] theorem logAppend_busUsed : (logAppend id ts v s).busUsed = s.busUsed := by rw [logAppend_frame]
@[simp] theorem logAppend_waitsGiven : (logAppend id ts v s).waitsGiven = s.waitsGiven := by rw [logAppend_frame]
@[simp] theorem logAppend_nmiClaimed : (logAppend id ts v s).nmiClaimed = s.nmiClaimed := by rw [logAppend_frame]
@[simp] theorem logAppend_nmiAccepted : (logAppend id ts v s).nmiAccepted = s.nmiAccepted := by rw [logAppend_frame]
@[simp] theorem logAppend_refused : (logAppend id ts v s).refused = s.refused := by rw [logAppend_frame]
@[simp] theorem logAppend_border : (logAppend id ts v s).border = s.border := by rw [logAppend_frame]
@[simp] theorem logAppend_earmic : (logAppend id ts v s).earmic = s.earmic := by rw [logAppend_frame]
@[simp] theorem logAppend_paging : (logAppend id ts v s).paging = s.paging := by rw [logAppend_frame]
@[simp] theorem logAppend_mode : (logAppend id ts v s).mode = s.mode := by rw [logAppend_frame]
@[simp] theorem logAppend_hsr : (logAppend id ts v s).hsr = s.hsr := by rw [logAppend_frame]
@[simp] theorem logAppend_slots : (logAppend id ts v s).slots = s.slots := by rw [logAppend_frame]
@[simp] theorem logAppend_dev : (logAppend id ts v s).dev = s.dev := by rw [logAppend_frame]
@[simp] theorem logAppend_ram : (logAppend id ts v s).ram = s.ram := by rw [logAppend_frame]
@[simp] theorem logAppend_ramGen : (logAppend id ts v s).ramGen = s.ramGen := by rw [logAppend_frame]
@[simp] theorem logAppend_draws : (logAppend id ts v s).draws = s.draws := by rw [logAppend_frame]
@[simp] theorem logAppend_blob : (logAppend id ts v s).blob = s.blob := by rw [logAppend_frame]
@[simp] theorem logAppend_busReply : (logAppend id ts v s).busReply = s.busReply := by rw [logAppend_frame]
@[simp] theorem logAppend_calls : (logAppend id ts v s).calls = s.calls := by rw [logAppend_frame]
@[simp] theorem logAppend_payload : (logAppend id ts v s).payload = s.payload := by rw [logAppend_frame]
@[simp] theorem logAppend_pend : (logAppend id ts v s).pend = s.pend := by rw [logAppend_frame]
@[simp] theorem logAppend_hostIn : (logAppend id ts v s).hostIn = s.hostIn := by rw [logAppend_frame]
@[simp] theorem logAppend_cpuIn : (logAppend id ts v s).cpuIn = s.cpuIn := by rw [logAppend_frame]
@[simp] theorem logAppend_devIn : (logAppend id ts v s).devIn = s.devIn := by rw [logAppend_frame]

end

/-- Everything one turn of `note` can change (R293). -/
theorem noteOne_frame (ts : Stamp) (id : LogId) (s : State) :
    noteOne ts id s = { s with fault := (noteOne ts id s).fault, ctrl := (noteOne ts id s).ctrl, result := (noteOne ts id s).result, value := (noteOne ts id s).value, logs := (noteOne ts id s).logs, lastLogTs := (noteOne ts id s).lastLogTs } := by
  unfold noteOne
  split
  · rw [logAppend_frame]
  · rfl

section
variable (ts : Stamp) (id : LogId) (s : State)

@[simp] theorem noteOne_cfg : (noteOne ts id s).cfg = s.cfg := by rw [noteOne_frame]
@[simp] theorem noteOne_tsc : (noteOne ts id s).tsc = s.tsc := by rw [noteOne_frame]
@[simp] theorem noteOne_frames : (noteOne ts id s).frames = s.frames := by rw [noteOne_frame]
@[simp] theorem noteOne_busy : (noteOne ts id s).busy = s.busy := by rw [noteOne_frame]
@[simp] theorem noteOne_stepStart : (noteOne ts id s).stepStart = s.stepStart := by rw [noteOne_frame]
@[simp] theorem noteOne_lastBusTs : (noteOne ts id s).lastBusTs = s.lastBusTs := by rw [noteOne_frame]
@[simp] theorem noteOne_busUsed : (noteOne ts id s).busUsed = s.busUsed := by rw [noteOne_frame]
@[simp] theorem noteOne_waitsGiven : (noteOne ts id s).waitsGiven = s.waitsGiven := by rw [noteOne_frame]
@[simp] theorem noteOne_nmiClaimed : (noteOne ts id s).nmiClaimed = s.nmiClaimed := by rw [noteOne_frame]
@[simp] theorem noteOne_nmiAccepted : (noteOne ts id s).nmiAccepted = s.nmiAccepted := by rw [noteOne_frame]
@[simp] theorem noteOne_refused : (noteOne ts id s).refused = s.refused := by rw [noteOne_frame]
@[simp] theorem noteOne_border : (noteOne ts id s).border = s.border := by rw [noteOne_frame]
@[simp] theorem noteOne_earmic : (noteOne ts id s).earmic = s.earmic := by rw [noteOne_frame]
@[simp] theorem noteOne_paging : (noteOne ts id s).paging = s.paging := by rw [noteOne_frame]
@[simp] theorem noteOne_mode : (noteOne ts id s).mode = s.mode := by rw [noteOne_frame]
@[simp] theorem noteOne_hsr : (noteOne ts id s).hsr = s.hsr := by rw [noteOne_frame]
@[simp] theorem noteOne_slots : (noteOne ts id s).slots = s.slots := by rw [noteOne_frame]
@[simp] theorem noteOne_dev : (noteOne ts id s).dev = s.dev := by rw [noteOne_frame]
@[simp] theorem noteOne_ram : (noteOne ts id s).ram = s.ram := by rw [noteOne_frame]
@[simp] theorem noteOne_ramGen : (noteOne ts id s).ramGen = s.ramGen := by rw [noteOne_frame]
@[simp] theorem noteOne_draws : (noteOne ts id s).draws = s.draws := by rw [noteOne_frame]
@[simp] theorem noteOne_blob : (noteOne ts id s).blob = s.blob := by rw [noteOne_frame]
@[simp] theorem noteOne_busReply : (noteOne ts id s).busReply = s.busReply := by rw [noteOne_frame]
@[simp] theorem noteOne_calls : (noteOne ts id s).calls = s.calls := by rw [noteOne_frame]
@[simp] theorem noteOne_payload : (noteOne ts id s).payload = s.payload := by rw [noteOne_frame]
@[simp] theorem noteOne_pend : (noteOne ts id s).pend = s.pend := by rw [noteOne_frame]
@[simp] theorem noteOne_hostIn : (noteOne ts id s).hostIn = s.hostIn := by rw [noteOne_frame]
@[simp] theorem noteOne_cpuIn : (noteOne ts id s).cpuIn = s.cpuIn := by rw [noteOne_frame]
@[simp] theorem noteOne_devIn : (noteOne ts id s).devIn = s.devIn := by rw [noteOne_frame]

end

/-- What holds before `note` and is kept by each of its turns holds after it (R293). -/
theorem note_induct (P : State → Prop) (ts : Stamp) (s : State) (h0 : P s)
    (h : ∀ id t, t.ctrl ≠ .faulted → P t → P (noteOne ts id t)) : P (note ts s) := by
  have step : ∀ id t, P t → P (unlessFaulted (noteOne ts id) t) := by
    intro id t ht
    unfold unlessFaulted
    split
    · exact ht
    · exact h id t (by assumption) ht
  exact step _ _ (step _ _ (step _ _ (step _ _ h0)))

section
variable (ts : Stamp) (s : State)

@[simp] theorem note_cfg : (note ts s).cfg = s.cfg :=
  note_induct (fun t => t.cfg = s.cfg) ts s rfl (fun id t _ h => by simpa using h)
@[simp] theorem note_tsc : (note ts s).tsc = s.tsc :=
  note_induct (fun t => t.tsc = s.tsc) ts s rfl (fun id t _ h => by simpa using h)
@[simp] theorem note_frames : (note ts s).frames = s.frames :=
  note_induct (fun t => t.frames = s.frames) ts s rfl (fun id t _ h => by simpa using h)
@[simp] theorem note_busy : (note ts s).busy = s.busy :=
  note_induct (fun t => t.busy = s.busy) ts s rfl (fun id t _ h => by simpa using h)
@[simp] theorem note_stepStart : (note ts s).stepStart = s.stepStart :=
  note_induct (fun t => t.stepStart = s.stepStart) ts s rfl (fun id t _ h => by simpa using h)
@[simp] theorem note_lastBusTs : (note ts s).lastBusTs = s.lastBusTs :=
  note_induct (fun t => t.lastBusTs = s.lastBusTs) ts s rfl (fun id t _ h => by simpa using h)
@[simp] theorem note_busUsed : (note ts s).busUsed = s.busUsed :=
  note_induct (fun t => t.busUsed = s.busUsed) ts s rfl (fun id t _ h => by simpa using h)
@[simp] theorem note_waitsGiven : (note ts s).waitsGiven = s.waitsGiven :=
  note_induct (fun t => t.waitsGiven = s.waitsGiven) ts s rfl (fun id t _ h => by simpa using h)
@[simp] theorem note_nmiClaimed : (note ts s).nmiClaimed = s.nmiClaimed :=
  note_induct (fun t => t.nmiClaimed = s.nmiClaimed) ts s rfl (fun id t _ h => by simpa using h)
@[simp] theorem note_nmiAccepted : (note ts s).nmiAccepted = s.nmiAccepted :=
  note_induct (fun t => t.nmiAccepted = s.nmiAccepted) ts s rfl (fun id t _ h => by simpa using h)
@[simp] theorem note_refused : (note ts s).refused = s.refused :=
  note_induct (fun t => t.refused = s.refused) ts s rfl (fun id t _ h => by simpa using h)
@[simp] theorem note_border : (note ts s).border = s.border :=
  note_induct (fun t => t.border = s.border) ts s rfl (fun id t _ h => by simpa using h)
@[simp] theorem note_earmic : (note ts s).earmic = s.earmic :=
  note_induct (fun t => t.earmic = s.earmic) ts s rfl (fun id t _ h => by simpa using h)
@[simp] theorem note_paging : (note ts s).paging = s.paging :=
  note_induct (fun t => t.paging = s.paging) ts s rfl (fun id t _ h => by simpa using h)
@[simp] theorem note_mode : (note ts s).mode = s.mode :=
  note_induct (fun t => t.mode = s.mode) ts s rfl (fun id t _ h => by simpa using h)
@[simp] theorem note_hsr : (note ts s).hsr = s.hsr :=
  note_induct (fun t => t.hsr = s.hsr) ts s rfl (fun id t _ h => by simpa using h)
@[simp] theorem note_slots : (note ts s).slots = s.slots :=
  note_induct (fun t => t.slots = s.slots) ts s rfl (fun id t _ h => by simpa using h)
@[simp] theorem note_dev : (note ts s).dev = s.dev :=
  note_induct (fun t => t.dev = s.dev) ts s rfl (fun id t _ h => by simpa using h)
@[simp] theorem note_ram : (note ts s).ram = s.ram :=
  note_induct (fun t => t.ram = s.ram) ts s rfl (fun id t _ h => by simpa using h)
@[simp] theorem note_ramGen : (note ts s).ramGen = s.ramGen :=
  note_induct (fun t => t.ramGen = s.ramGen) ts s rfl (fun id t _ h => by simpa using h)
@[simp] theorem note_draws : (note ts s).draws = s.draws :=
  note_induct (fun t => t.draws = s.draws) ts s rfl (fun id t _ h => by simpa using h)
@[simp] theorem note_blob : (note ts s).blob = s.blob :=
  note_induct (fun t => t.blob = s.blob) ts s rfl (fun id t _ h => by simpa using h)
@[simp] theorem note_busReply : (note ts s).busReply = s.busReply :=
  note_induct (fun t => t.busReply = s.busReply) ts s rfl (fun id t _ h => by simpa using h)
@[simp] theorem note_calls : (note ts s).calls = s.calls :=
  note_induct (fun t => t.calls = s.calls) ts s rfl (fun id t _ h => by simpa using h)
@[simp] theorem note_payload : (note ts s).payload = s.payload :=
  note_induct (fun t => t.payload = s.payload) ts s rfl (fun id t _ h => by simpa using h)
@[simp] theorem note_pend : (note ts s).pend = s.pend :=
  note_induct (fun t => t.pend = s.pend) ts s rfl (fun id t _ h => by simpa using h)
@[simp] theorem note_hostIn : (note ts s).hostIn = s.hostIn :=
  note_induct (fun t => t.hostIn = s.hostIn) ts s rfl (fun id t _ h => by simpa using h)
@[simp] theorem note_cpuIn : (note ts s).cpuIn = s.cpuIn :=
  note_induct (fun t => t.cpuIn = s.cpuIn) ts s rfl (fun id t _ h => by simpa using h)
@[simp] theorem note_devIn : (note ts s).devIn = s.devIn :=
  note_induct (fun t => t.devIn = s.devIn) ts s rfl (fun id t _ h => by simpa using h)

/-- Everything `note` can change (R293): the log, or a fault raised. -/
theorem note_frame : note ts s = { s with fault := (note ts s).fault, ctrl := (note ts s).ctrl, result := (note ts s).result, value := (note ts s).value, logs := (note ts s).logs, lastLogTs := (note ts s).lastLogTs } := by
  apply State.ext <;> simp

end

/-- Everything `remap` can change (R241): the table, or a fault raised. -/
theorem remap_frame (i : Nat) (t : Target) (s : State) :
    remap i t s = { s with fault := (remap i t s).fault, ctrl := (remap i t s).ctrl, result := (remap i t s).result, value := (remap i t s).value, slots := (remap i t s).slots } := by
  obtain ⟨-, -, -, h⟩ | ⟨-, -, -, h⟩ | ⟨-, h⟩ := remap_cases i t s <;> rw [h] <;> unfold raise <;> split <;> rfl

section
variable (i : Nat) (t : Target) (s : State)

@[simp] theorem remap_cfg : (remap i t s).cfg = s.cfg := by rw [remap_frame]
@[simp] theorem remap_tsc : (remap i t s).tsc = s.tsc := by rw [remap_frame]
@[simp] theorem remap_frames : (remap i t s).frames = s.frames := by rw [remap_frame]
@[simp] theorem remap_busy : (remap i t s).busy = s.busy := by rw [remap_frame]
@[simp] theorem remap_stepStart : (remap i t s).stepStart = s.stepStart := by rw [remap_frame]
@[simp] theorem remap_lastBusTs : (remap i t s).lastBusTs = s.lastBusTs := by rw [remap_frame]
@[simp] theorem remap_busUsed : (remap i t s).busUsed = s.busUsed := by rw [remap_frame]
@[simp] theorem remap_waitsGiven : (remap i t s).waitsGiven = s.waitsGiven := by rw [remap_frame]
@[simp] theorem remap_nmiClaimed : (remap i t s).nmiClaimed = s.nmiClaimed := by rw [remap_frame]
@[simp] theorem remap_nmiAccepted : (remap i t s).nmiAccepted = s.nmiAccepted := by rw [remap_frame]
@[simp] theorem remap_refused : (remap i t s).refused = s.refused := by rw [remap_frame]
@[simp] theorem remap_border : (remap i t s).border = s.border := by rw [remap_frame]
@[simp] theorem remap_earmic : (remap i t s).earmic = s.earmic := by rw [remap_frame]
@[simp] theorem remap_paging : (remap i t s).paging = s.paging := by rw [remap_frame]
@[simp] theorem remap_mode : (remap i t s).mode = s.mode := by rw [remap_frame]
@[simp] theorem remap_hsr : (remap i t s).hsr = s.hsr := by rw [remap_frame]
@[simp] theorem remap_logs : (remap i t s).logs = s.logs := by rw [remap_frame]
@[simp] theorem remap_lastLogTs : (remap i t s).lastLogTs = s.lastLogTs := by rw [remap_frame]
@[simp] theorem remap_dev : (remap i t s).dev = s.dev := by rw [remap_frame]
@[simp] theorem remap_ram : (remap i t s).ram = s.ram := by rw [remap_frame]
@[simp] theorem remap_ramGen : (remap i t s).ramGen = s.ramGen := by rw [remap_frame]
@[simp] theorem remap_draws : (remap i t s).draws = s.draws := by rw [remap_frame]
@[simp] theorem remap_blob : (remap i t s).blob = s.blob := by rw [remap_frame]
@[simp] theorem remap_busReply : (remap i t s).busReply = s.busReply := by rw [remap_frame]
@[simp] theorem remap_calls : (remap i t s).calls = s.calls := by rw [remap_frame]
@[simp] theorem remap_payload : (remap i t s).payload = s.payload := by rw [remap_frame]
@[simp] theorem remap_pend : (remap i t s).pend = s.pend := by rw [remap_frame]
@[simp] theorem remap_hostIn : (remap i t s).hostIn = s.hostIn := by rw [remap_frame]
@[simp] theorem remap_cpuIn : (remap i t s).cpuIn = s.cpuIn := by rw [remap_frame]
@[simp] theorem remap_devIn : (remap i t s).devIn = s.devIn := by rw [remap_frame]

end

/-- Everything `change_mem_paged` can change (R248). -/
theorem changeMemPaged_frame (want : Nat → SlotSrc) (s : State) :
    changeMemPaged want s = { s with fault := (changeMemPaged want s).fault, ctrl := (changeMemPaged want s).ctrl, result := (changeMemPaged want s).result, value := (changeMemPaged want s).value, slots := (changeMemPaged want s).slots } := by
  obtain ⟨-, -, h⟩ | ⟨-, -, h⟩ | ⟨-, h⟩ := changeMemPaged_cases want s <;> rw [h] <;> unfold raise <;> split <;> rfl

section
variable (want : Nat → SlotSrc) (s : State)

@[simp] theorem changeMemPaged_cfg : (changeMemPaged want s).cfg = s.cfg := by rw [changeMemPaged_frame]
@[simp] theorem changeMemPaged_tsc : (changeMemPaged want s).tsc = s.tsc := by rw [changeMemPaged_frame]
@[simp] theorem changeMemPaged_frames : (changeMemPaged want s).frames = s.frames := by rw [changeMemPaged_frame]
@[simp] theorem changeMemPaged_busy : (changeMemPaged want s).busy = s.busy := by rw [changeMemPaged_frame]
@[simp] theorem changeMemPaged_stepStart : (changeMemPaged want s).stepStart = s.stepStart := by rw [changeMemPaged_frame]
@[simp] theorem changeMemPaged_lastBusTs : (changeMemPaged want s).lastBusTs = s.lastBusTs := by rw [changeMemPaged_frame]
@[simp] theorem changeMemPaged_busUsed : (changeMemPaged want s).busUsed = s.busUsed := by rw [changeMemPaged_frame]
@[simp] theorem changeMemPaged_waitsGiven : (changeMemPaged want s).waitsGiven = s.waitsGiven := by rw [changeMemPaged_frame]
@[simp] theorem changeMemPaged_nmiClaimed : (changeMemPaged want s).nmiClaimed = s.nmiClaimed := by rw [changeMemPaged_frame]
@[simp] theorem changeMemPaged_nmiAccepted : (changeMemPaged want s).nmiAccepted = s.nmiAccepted := by rw [changeMemPaged_frame]
@[simp] theorem changeMemPaged_refused : (changeMemPaged want s).refused = s.refused := by rw [changeMemPaged_frame]
@[simp] theorem changeMemPaged_border : (changeMemPaged want s).border = s.border := by rw [changeMemPaged_frame]
@[simp] theorem changeMemPaged_earmic : (changeMemPaged want s).earmic = s.earmic := by rw [changeMemPaged_frame]
@[simp] theorem changeMemPaged_paging : (changeMemPaged want s).paging = s.paging := by rw [changeMemPaged_frame]
@[simp] theorem changeMemPaged_mode : (changeMemPaged want s).mode = s.mode := by rw [changeMemPaged_frame]
@[simp] theorem changeMemPaged_hsr : (changeMemPaged want s).hsr = s.hsr := by rw [changeMemPaged_frame]
@[simp] theorem changeMemPaged_logs : (changeMemPaged want s).logs = s.logs := by rw [changeMemPaged_frame]
@[simp] theorem changeMemPaged_lastLogTs : (changeMemPaged want s).lastLogTs = s.lastLogTs := by rw [changeMemPaged_frame]
@[simp] theorem changeMemPaged_dev : (changeMemPaged want s).dev = s.dev := by rw [changeMemPaged_frame]
@[simp] theorem changeMemPaged_ram : (changeMemPaged want s).ram = s.ram := by rw [changeMemPaged_frame]
@[simp] theorem changeMemPaged_ramGen : (changeMemPaged want s).ramGen = s.ramGen := by rw [changeMemPaged_frame]
@[simp] theorem changeMemPaged_draws : (changeMemPaged want s).draws = s.draws := by rw [changeMemPaged_frame]
@[simp] theorem changeMemPaged_blob : (changeMemPaged want s).blob = s.blob := by rw [changeMemPaged_frame]
@[simp] theorem changeMemPaged_busReply : (changeMemPaged want s).busReply = s.busReply := by rw [changeMemPaged_frame]
@[simp] theorem changeMemPaged_calls : (changeMemPaged want s).calls = s.calls := by rw [changeMemPaged_frame]
@[simp] theorem changeMemPaged_payload : (changeMemPaged want s).payload = s.payload := by rw [changeMemPaged_frame]
@[simp] theorem changeMemPaged_pend : (changeMemPaged want s).pend = s.pend := by rw [changeMemPaged_frame]
@[simp] theorem changeMemPaged_hostIn : (changeMemPaged want s).hostIn = s.hostIn := by rw [changeMemPaged_frame]
@[simp] theorem changeMemPaged_cpuIn : (changeMemPaged want s).cpuIn = s.cpuIn := by rw [changeMemPaged_frame]
@[simp] theorem changeMemPaged_devIn : (changeMemPaged want s).devIn = s.devIn := by rw [changeMemPaged_frame]

end

/-- Everything `apply_scld` can change (R250). -/
theorem applyScld_frame (s : State) :
    applyScld s = { s with fault := (applyScld s).fault, ctrl := (applyScld s).ctrl, result := (applyScld s).result, value := (applyScld s).value, slots := (applyScld s).slots } := by
  exact changeMemPaged_frame _ s

section
variable (s : State)

@[simp] theorem applyScld_cfg : (applyScld s).cfg = s.cfg := by rw [applyScld_frame]
@[simp] theorem applyScld_tsc : (applyScld s).tsc = s.tsc := by rw [applyScld_frame]
@[simp] theorem applyScld_frames : (applyScld s).frames = s.frames := by rw [applyScld_frame]
@[simp] theorem applyScld_busy : (applyScld s).busy = s.busy := by rw [applyScld_frame]
@[simp] theorem applyScld_stepStart : (applyScld s).stepStart = s.stepStart := by rw [applyScld_frame]
@[simp] theorem applyScld_lastBusTs : (applyScld s).lastBusTs = s.lastBusTs := by rw [applyScld_frame]
@[simp] theorem applyScld_busUsed : (applyScld s).busUsed = s.busUsed := by rw [applyScld_frame]
@[simp] theorem applyScld_waitsGiven : (applyScld s).waitsGiven = s.waitsGiven := by rw [applyScld_frame]
@[simp] theorem applyScld_nmiClaimed : (applyScld s).nmiClaimed = s.nmiClaimed := by rw [applyScld_frame]
@[simp] theorem applyScld_nmiAccepted : (applyScld s).nmiAccepted = s.nmiAccepted := by rw [applyScld_frame]
@[simp] theorem applyScld_refused : (applyScld s).refused = s.refused := by rw [applyScld_frame]
@[simp] theorem applyScld_border : (applyScld s).border = s.border := by rw [applyScld_frame]
@[simp] theorem applyScld_earmic : (applyScld s).earmic = s.earmic := by rw [applyScld_frame]
@[simp] theorem applyScld_paging : (applyScld s).paging = s.paging := by rw [applyScld_frame]
@[simp] theorem applyScld_mode : (applyScld s).mode = s.mode := by rw [applyScld_frame]
@[simp] theorem applyScld_hsr : (applyScld s).hsr = s.hsr := by rw [applyScld_frame]
@[simp] theorem applyScld_logs : (applyScld s).logs = s.logs := by rw [applyScld_frame]
@[simp] theorem applyScld_lastLogTs : (applyScld s).lastLogTs = s.lastLogTs := by rw [applyScld_frame]
@[simp] theorem applyScld_dev : (applyScld s).dev = s.dev := by rw [applyScld_frame]
@[simp] theorem applyScld_ram : (applyScld s).ram = s.ram := by rw [applyScld_frame]
@[simp] theorem applyScld_ramGen : (applyScld s).ramGen = s.ramGen := by rw [applyScld_frame]
@[simp] theorem applyScld_draws : (applyScld s).draws = s.draws := by rw [applyScld_frame]
@[simp] theorem applyScld_blob : (applyScld s).blob = s.blob := by rw [applyScld_frame]
@[simp] theorem applyScld_busReply : (applyScld s).busReply = s.busReply := by rw [applyScld_frame]
@[simp] theorem applyScld_calls : (applyScld s).calls = s.calls := by rw [applyScld_frame]
@[simp] theorem applyScld_payload : (applyScld s).payload = s.payload := by rw [applyScld_frame]
@[simp] theorem applyScld_pend : (applyScld s).pend = s.pend := by rw [applyScld_frame]
@[simp] theorem applyScld_hostIn : (applyScld s).hostIn = s.hostIn := by rw [applyScld_frame]
@[simp] theorem applyScld_cpuIn : (applyScld s).cpuIn = s.cpuIn := by rw [applyScld_frame]
@[simp] theorem applyScld_devIn : (applyScld s).devIn = s.devIn := by rw [applyScld_frame]

end

/-- What holds before the two remaps of a latch write and is kept by each holds after them (R251). -/
theorem remapLatch_induct (P : State → Prop) (s : State) (h0 : P s) (h : ∀ i t u, P u → P (remap i t u)) :
    P (remapLatch s) := by
  unfold remapLatch unlessFaulted
  split
  · exact h _ _ _ h0
  · exact h _ _ _ (h _ _ _ h0)

section
variable (s : State)

@[simp] theorem remapLatch_cfg : (remapLatch s).cfg = s.cfg :=
  remapLatch_induct (fun t => t.cfg = s.cfg) s rfl (fun i t u h => by simpa using h)
@[simp] theorem remapLatch_tsc : (remapLatch s).tsc = s.tsc :=
  remapLatch_induct (fun t => t.tsc = s.tsc) s rfl (fun i t u h => by simpa using h)
@[simp] theorem remapLatch_frames : (remapLatch s).frames = s.frames :=
  remapLatch_induct (fun t => t.frames = s.frames) s rfl (fun i t u h => by simpa using h)
@[simp] theorem remapLatch_busy : (remapLatch s).busy = s.busy :=
  remapLatch_induct (fun t => t.busy = s.busy) s rfl (fun i t u h => by simpa using h)
@[simp] theorem remapLatch_stepStart : (remapLatch s).stepStart = s.stepStart :=
  remapLatch_induct (fun t => t.stepStart = s.stepStart) s rfl (fun i t u h => by simpa using h)
@[simp] theorem remapLatch_lastBusTs : (remapLatch s).lastBusTs = s.lastBusTs :=
  remapLatch_induct (fun t => t.lastBusTs = s.lastBusTs) s rfl (fun i t u h => by simpa using h)
@[simp] theorem remapLatch_busUsed : (remapLatch s).busUsed = s.busUsed :=
  remapLatch_induct (fun t => t.busUsed = s.busUsed) s rfl (fun i t u h => by simpa using h)
@[simp] theorem remapLatch_waitsGiven : (remapLatch s).waitsGiven = s.waitsGiven :=
  remapLatch_induct (fun t => t.waitsGiven = s.waitsGiven) s rfl (fun i t u h => by simpa using h)
@[simp] theorem remapLatch_nmiClaimed : (remapLatch s).nmiClaimed = s.nmiClaimed :=
  remapLatch_induct (fun t => t.nmiClaimed = s.nmiClaimed) s rfl (fun i t u h => by simpa using h)
@[simp] theorem remapLatch_nmiAccepted : (remapLatch s).nmiAccepted = s.nmiAccepted :=
  remapLatch_induct (fun t => t.nmiAccepted = s.nmiAccepted) s rfl (fun i t u h => by simpa using h)
@[simp] theorem remapLatch_refused : (remapLatch s).refused = s.refused :=
  remapLatch_induct (fun t => t.refused = s.refused) s rfl (fun i t u h => by simpa using h)
@[simp] theorem remapLatch_border : (remapLatch s).border = s.border :=
  remapLatch_induct (fun t => t.border = s.border) s rfl (fun i t u h => by simpa using h)
@[simp] theorem remapLatch_earmic : (remapLatch s).earmic = s.earmic :=
  remapLatch_induct (fun t => t.earmic = s.earmic) s rfl (fun i t u h => by simpa using h)
@[simp] theorem remapLatch_paging : (remapLatch s).paging = s.paging :=
  remapLatch_induct (fun t => t.paging = s.paging) s rfl (fun i t u h => by simpa using h)
@[simp] theorem remapLatch_mode : (remapLatch s).mode = s.mode :=
  remapLatch_induct (fun t => t.mode = s.mode) s rfl (fun i t u h => by simpa using h)
@[simp] theorem remapLatch_hsr : (remapLatch s).hsr = s.hsr :=
  remapLatch_induct (fun t => t.hsr = s.hsr) s rfl (fun i t u h => by simpa using h)
@[simp] theorem remapLatch_logs : (remapLatch s).logs = s.logs :=
  remapLatch_induct (fun t => t.logs = s.logs) s rfl (fun i t u h => by simpa using h)
@[simp] theorem remapLatch_lastLogTs : (remapLatch s).lastLogTs = s.lastLogTs :=
  remapLatch_induct (fun t => t.lastLogTs = s.lastLogTs) s rfl (fun i t u h => by simpa using h)
@[simp] theorem remapLatch_dev : (remapLatch s).dev = s.dev :=
  remapLatch_induct (fun t => t.dev = s.dev) s rfl (fun i t u h => by simpa using h)
@[simp] theorem remapLatch_ram : (remapLatch s).ram = s.ram :=
  remapLatch_induct (fun t => t.ram = s.ram) s rfl (fun i t u h => by simpa using h)
@[simp] theorem remapLatch_ramGen : (remapLatch s).ramGen = s.ramGen :=
  remapLatch_induct (fun t => t.ramGen = s.ramGen) s rfl (fun i t u h => by simpa using h)
@[simp] theorem remapLatch_draws : (remapLatch s).draws = s.draws :=
  remapLatch_induct (fun t => t.draws = s.draws) s rfl (fun i t u h => by simpa using h)
@[simp] theorem remapLatch_blob : (remapLatch s).blob = s.blob :=
  remapLatch_induct (fun t => t.blob = s.blob) s rfl (fun i t u h => by simpa using h)
@[simp] theorem remapLatch_busReply : (remapLatch s).busReply = s.busReply :=
  remapLatch_induct (fun t => t.busReply = s.busReply) s rfl (fun i t u h => by simpa using h)
@[simp] theorem remapLatch_calls : (remapLatch s).calls = s.calls :=
  remapLatch_induct (fun t => t.calls = s.calls) s rfl (fun i t u h => by simpa using h)
@[simp] theorem remapLatch_payload : (remapLatch s).payload = s.payload :=
  remapLatch_induct (fun t => t.payload = s.payload) s rfl (fun i t u h => by simpa using h)
@[simp] theorem remapLatch_pend : (remapLatch s).pend = s.pend :=
  remapLatch_induct (fun t => t.pend = s.pend) s rfl (fun i t u h => by simpa using h)
@[simp] theorem remapLatch_hostIn : (remapLatch s).hostIn = s.hostIn :=
  remapLatch_induct (fun t => t.hostIn = s.hostIn) s rfl (fun i t u h => by simpa using h)
@[simp] theorem remapLatch_cpuIn : (remapLatch s).cpuIn = s.cpuIn :=
  remapLatch_induct (fun t => t.cpuIn = s.cpuIn) s rfl (fun i t u h => by simpa using h)
@[simp] theorem remapLatch_devIn : (remapLatch s).devIn = s.devIn :=
  remapLatch_induct (fun t => t.devIn = s.devIn) s rfl (fun i t u h => by simpa using h)

end

section
variable (v : Byte) (forced : Bool) (s : State)

@[simp] theorem writePaging_cfg : (writePaging v forced s).cfg = s.cfg := by unfold writePaging; split <;> simp
@[simp] theorem writePaging_tsc : (writePaging v forced s).tsc = s.tsc := by unfold writePaging; split <;> simp
@[simp] theorem writePaging_frames : (writePaging v forced s).frames = s.frames := by unfold writePaging; split <;> simp
@[simp] theorem writePaging_busy : (writePaging v forced s).busy = s.busy := by unfold writePaging; split <;> simp
@[simp] theorem writePaging_stepStart : (writePaging v forced s).stepStart = s.stepStart := by unfold writePaging; split <;> simp
@[simp] theorem writePaging_lastBusTs : (writePaging v forced s).lastBusTs = s.lastBusTs := by unfold writePaging; split <;> simp
@[simp] theorem writePaging_busUsed : (writePaging v forced s).busUsed = s.busUsed := by unfold writePaging; split <;> simp
@[simp] theorem writePaging_waitsGiven : (writePaging v forced s).waitsGiven = s.waitsGiven := by unfold writePaging; split <;> simp
@[simp] theorem writePaging_nmiClaimed : (writePaging v forced s).nmiClaimed = s.nmiClaimed := by unfold writePaging; split <;> simp
@[simp] theorem writePaging_nmiAccepted : (writePaging v forced s).nmiAccepted = s.nmiAccepted := by unfold writePaging; split <;> simp
@[simp] theorem writePaging_refused : (writePaging v forced s).refused = s.refused := by unfold writePaging; split <;> simp
@[simp] theorem writePaging_border : (writePaging v forced s).border = s.border := by unfold writePaging; split <;> simp
@[simp] theorem writePaging_earmic : (writePaging v forced s).earmic = s.earmic := by unfold writePaging; split <;> simp
@[simp] theorem writePaging_mode : (writePaging v forced s).mode = s.mode := by unfold writePaging; split <;> simp
@[simp] theorem writePaging_hsr : (writePaging v forced s).hsr = s.hsr := by unfold writePaging; split <;> simp
@[simp] theorem writePaging_logs : (writePaging v forced s).logs = s.logs := by unfold writePaging; split <;> simp
@[simp] theorem writePaging_lastLogTs : (writePaging v forced s).lastLogTs = s.lastLogTs := by unfold writePaging; split <;> simp
@[simp] theorem writePaging_dev : (writePaging v forced s).dev = s.dev := by unfold writePaging; split <;> simp
@[simp] theorem writePaging_ram : (writePaging v forced s).ram = s.ram := by unfold writePaging; split <;> simp
@[simp] theorem writePaging_ramGen : (writePaging v forced s).ramGen = s.ramGen := by unfold writePaging; split <;> simp
@[simp] theorem writePaging_draws : (writePaging v forced s).draws = s.draws := by unfold writePaging; split <;> simp
@[simp] theorem writePaging_blob : (writePaging v forced s).blob = s.blob := by unfold writePaging; split <;> simp
@[simp] theorem writePaging_busReply : (writePaging v forced s).busReply = s.busReply := by unfold writePaging; split <;> simp
@[simp] theorem writePaging_calls : (writePaging v forced s).calls = s.calls := by unfold writePaging; split <;> simp
@[simp] theorem writePaging_payload : (writePaging v forced s).payload = s.payload := by unfold writePaging; split <;> simp
@[simp] theorem writePaging_pend : (writePaging v forced s).pend = s.pend := by unfold writePaging; split <;> simp
@[simp] theorem writePaging_hostIn : (writePaging v forced s).hostIn = s.hostIn := by unfold writePaging; split <;> simp
@[simp] theorem writePaging_cpuIn : (writePaging v forced s).cpuIn = s.cpuIn := by unfold writePaging; split <;> simp
@[simp] theorem writePaging_devIn : (writePaging v forced s).devIn = s.devIn := by unfold writePaging; split <;> simp

end

section
variable (v : Byte) (s : State)

@[simp] theorem writeMode_cfg : (writeMode v s).cfg = s.cfg := by simp [writeMode]
@[simp] theorem writeMode_tsc : (writeMode v s).tsc = s.tsc := by simp [writeMode]
@[simp] theorem writeMode_frames : (writeMode v s).frames = s.frames := by simp [writeMode]
@[simp] theorem writeMode_busy : (writeMode v s).busy = s.busy := by simp [writeMode]
@[simp] theorem writeMode_stepStart : (writeMode v s).stepStart = s.stepStart := by simp [writeMode]
@[simp] theorem writeMode_lastBusTs : (writeMode v s).lastBusTs = s.lastBusTs := by simp [writeMode]
@[simp] theorem writeMode_busUsed : (writeMode v s).busUsed = s.busUsed := by simp [writeMode]
@[simp] theorem writeMode_waitsGiven : (writeMode v s).waitsGiven = s.waitsGiven := by simp [writeMode]
@[simp] theorem writeMode_nmiClaimed : (writeMode v s).nmiClaimed = s.nmiClaimed := by simp [writeMode]
@[simp] theorem writeMode_nmiAccepted : (writeMode v s).nmiAccepted = s.nmiAccepted := by simp [writeMode]
@[simp] theorem writeMode_refused : (writeMode v s).refused = s.refused := by simp [writeMode]
@[simp] theorem writeMode_border : (writeMode v s).border = s.border := by simp [writeMode]
@[simp] theorem writeMode_earmic : (writeMode v s).earmic = s.earmic := by simp [writeMode]
@[simp] theorem writeMode_paging : (writeMode v s).paging = s.paging := by simp [writeMode]
@[simp] theorem writeMode_hsr : (writeMode v s).hsr = s.hsr := by simp [writeMode]
@[simp] theorem writeMode_logs : (writeMode v s).logs = s.logs := by simp [writeMode]
@[simp] theorem writeMode_lastLogTs : (writeMode v s).lastLogTs = s.lastLogTs := by simp [writeMode]
@[simp] theorem writeMode_dev : (writeMode v s).dev = s.dev := by simp [writeMode]
@[simp] theorem writeMode_ram : (writeMode v s).ram = s.ram := by simp [writeMode]
@[simp] theorem writeMode_ramGen : (writeMode v s).ramGen = s.ramGen := by simp [writeMode]
@[simp] theorem writeMode_draws : (writeMode v s).draws = s.draws := by simp [writeMode]
@[simp] theorem writeMode_blob : (writeMode v s).blob = s.blob := by simp [writeMode]
@[simp] theorem writeMode_busReply : (writeMode v s).busReply = s.busReply := by simp [writeMode]
@[simp] theorem writeMode_calls : (writeMode v s).calls = s.calls := by simp [writeMode]
@[simp] theorem writeMode_payload : (writeMode v s).payload = s.payload := by simp [writeMode]
@[simp] theorem writeMode_pend : (writeMode v s).pend = s.pend := by simp [writeMode]
@[simp] theorem writeMode_hostIn : (writeMode v s).hostIn = s.hostIn := by simp [writeMode]
@[simp] theorem writeMode_cpuIn : (writeMode v s).cpuIn = s.cpuIn := by simp [writeMode]
@[simp] theorem writeMode_devIn : (writeMode v s).devIn = s.devIn := by simp [writeMode]

end

section
variable (v : Byte) (s : State)

@[simp] theorem writeHsr_cfg : (writeHsr v s).cfg = s.cfg := by simp [writeHsr]
@[simp] theorem writeHsr_tsc : (writeHsr v s).tsc = s.tsc := by simp [writeHsr]
@[simp] theorem writeHsr_frames : (writeHsr v s).frames = s.frames := by simp [writeHsr]
@[simp] theorem writeHsr_busy : (writeHsr v s).busy = s.busy := by simp [writeHsr]
@[simp] theorem writeHsr_stepStart : (writeHsr v s).stepStart = s.stepStart := by simp [writeHsr]
@[simp] theorem writeHsr_lastBusTs : (writeHsr v s).lastBusTs = s.lastBusTs := by simp [writeHsr]
@[simp] theorem writeHsr_busUsed : (writeHsr v s).busUsed = s.busUsed := by simp [writeHsr]
@[simp] theorem writeHsr_waitsGiven : (writeHsr v s).waitsGiven = s.waitsGiven := by simp [writeHsr]
@[simp] theorem writeHsr_nmiClaimed : (writeHsr v s).nmiClaimed = s.nmiClaimed := by simp [writeHsr]
@[simp] theorem writeHsr_nmiAccepted : (writeHsr v s).nmiAccepted = s.nmiAccepted := by simp [writeHsr]
@[simp] theorem writeHsr_refused : (writeHsr v s).refused = s.refused := by simp [writeHsr]
@[simp] theorem writeHsr_border : (writeHsr v s).border = s.border := by simp [writeHsr]
@[simp] theorem writeHsr_earmic : (writeHsr v s).earmic = s.earmic := by simp [writeHsr]
@[simp] theorem writeHsr_paging : (writeHsr v s).paging = s.paging := by simp [writeHsr]
@[simp] theorem writeHsr_mode : (writeHsr v s).mode = s.mode := by simp [writeHsr]
@[simp] theorem writeHsr_logs : (writeHsr v s).logs = s.logs := by simp [writeHsr]
@[simp] theorem writeHsr_lastLogTs : (writeHsr v s).lastLogTs = s.lastLogTs := by simp [writeHsr]
@[simp] theorem writeHsr_dev : (writeHsr v s).dev = s.dev := by simp [writeHsr]
@[simp] theorem writeHsr_ram : (writeHsr v s).ram = s.ram := by simp [writeHsr]
@[simp] theorem writeHsr_ramGen : (writeHsr v s).ramGen = s.ramGen := by simp [writeHsr]
@[simp] theorem writeHsr_draws : (writeHsr v s).draws = s.draws := by simp [writeHsr]
@[simp] theorem writeHsr_blob : (writeHsr v s).blob = s.blob := by simp [writeHsr]
@[simp] theorem writeHsr_busReply : (writeHsr v s).busReply = s.busReply := by simp [writeHsr]
@[simp] theorem writeHsr_calls : (writeHsr v s).calls = s.calls := by simp [writeHsr]
@[simp] theorem writeHsr_payload : (writeHsr v s).payload = s.payload := by simp [writeHsr]
@[simp] theorem writeHsr_pend : (writeHsr v s).pend = s.pend := by simp [writeHsr]
@[simp] theorem writeHsr_hostIn : (writeHsr v s).hostIn = s.hostIn := by simp [writeHsr]
@[simp] theorem writeHsr_cpuIn : (writeHsr v s).cpuIn = s.cpuIn := by simp [writeHsr]
@[simp] theorem writeHsr_devIn : (writeHsr v s).devIn = s.devIn := by simp [writeHsr]

end

section
variable (pool : Bool) (mask : BitVec 8) (s : State)

@[simp] theorem mapPagedWrite_cfg : (mapPagedWrite pool mask s).cfg = s.cfg := by simp [mapPagedWrite]
@[simp] theorem mapPagedWrite_tsc : (mapPagedWrite pool mask s).tsc = s.tsc := by simp [mapPagedWrite]
@[simp] theorem mapPagedWrite_frames : (mapPagedWrite pool mask s).frames = s.frames := by simp [mapPagedWrite]
@[simp] theorem mapPagedWrite_busy : (mapPagedWrite pool mask s).busy = s.busy := by simp [mapPagedWrite]
@[simp] theorem mapPagedWrite_stepStart : (mapPagedWrite pool mask s).stepStart = s.stepStart := by simp [mapPagedWrite]
@[simp] theorem mapPagedWrite_lastBusTs : (mapPagedWrite pool mask s).lastBusTs = s.lastBusTs := by simp [mapPagedWrite]
@[simp] theorem mapPagedWrite_busUsed : (mapPagedWrite pool mask s).busUsed = s.busUsed := by simp [mapPagedWrite]
@[simp] theorem mapPagedWrite_waitsGiven : (mapPagedWrite pool mask s).waitsGiven = s.waitsGiven := by simp [mapPagedWrite]
@[simp] theorem mapPagedWrite_nmiClaimed : (mapPagedWrite pool mask s).nmiClaimed = s.nmiClaimed := by simp [mapPagedWrite]
@[simp] theorem mapPagedWrite_nmiAccepted : (mapPagedWrite pool mask s).nmiAccepted = s.nmiAccepted := by simp [mapPagedWrite]
@[simp] theorem mapPagedWrite_refused : (mapPagedWrite pool mask s).refused = s.refused := by simp [mapPagedWrite]
@[simp] theorem mapPagedWrite_border : (mapPagedWrite pool mask s).border = s.border := by simp [mapPagedWrite]
@[simp] theorem mapPagedWrite_earmic : (mapPagedWrite pool mask s).earmic = s.earmic := by simp [mapPagedWrite]
@[simp] theorem mapPagedWrite_paging : (mapPagedWrite pool mask s).paging = s.paging := by simp [mapPagedWrite]
@[simp] theorem mapPagedWrite_logs : (mapPagedWrite pool mask s).logs = s.logs := by simp [mapPagedWrite]
@[simp] theorem mapPagedWrite_lastLogTs : (mapPagedWrite pool mask s).lastLogTs = s.lastLogTs := by simp [mapPagedWrite]
@[simp] theorem mapPagedWrite_dev : (mapPagedWrite pool mask s).dev = s.dev := by simp [mapPagedWrite]
@[simp] theorem mapPagedWrite_ram : (mapPagedWrite pool mask s).ram = s.ram := by simp [mapPagedWrite]
@[simp] theorem mapPagedWrite_ramGen : (mapPagedWrite pool mask s).ramGen = s.ramGen := by simp [mapPagedWrite]
@[simp] theorem mapPagedWrite_draws : (mapPagedWrite pool mask s).draws = s.draws := by simp [mapPagedWrite]
@[simp] theorem mapPagedWrite_blob : (mapPagedWrite pool mask s).blob = s.blob := by simp [mapPagedWrite]
@[simp] theorem mapPagedWrite_busReply : (mapPagedWrite pool mask s).busReply = s.busReply := by simp [mapPagedWrite]
@[simp] theorem mapPagedWrite_calls : (mapPagedWrite pool mask s).calls = s.calls := by simp [mapPagedWrite]
@[simp] theorem mapPagedWrite_payload : (mapPagedWrite pool mask s).payload = s.payload := by simp [mapPagedWrite]
@[simp] theorem mapPagedWrite_pend : (mapPagedWrite pool mask s).pend = s.pend := by simp [mapPagedWrite]
@[simp] theorem mapPagedWrite_hostIn : (mapPagedWrite pool mask s).hostIn = s.hostIn := by simp [mapPagedWrite]
@[simp] theorem mapPagedWrite_cpuIn : (mapPagedWrite pool mask s).cpuIn = s.cpuIn := by simp [mapPagedWrite]
@[simp] theorem mapPagedWrite_devIn : (mapPagedWrite pool mask s).devIn = s.devIn := by simp [mapPagedWrite]

end

section
variable (r : WritableReg) (v : BitVec 8) (s : State)

@[simp] theorem writeReg_cfg : (writeReg r v s).cfg = s.cfg := by cases r <;> simp [writeReg]
@[simp] theorem writeReg_tsc : (writeReg r v s).tsc = s.tsc := by cases r <;> simp [writeReg]
@[simp] theorem writeReg_frames : (writeReg r v s).frames = s.frames := by cases r <;> simp [writeReg]
@[simp] theorem writeReg_busy : (writeReg r v s).busy = s.busy := by cases r <;> simp [writeReg]
@[simp] theorem writeReg_stepStart : (writeReg r v s).stepStart = s.stepStart := by cases r <;> simp [writeReg]
@[simp] theorem writeReg_lastBusTs : (writeReg r v s).lastBusTs = s.lastBusTs := by cases r <;> simp [writeReg]
@[simp] theorem writeReg_busUsed : (writeReg r v s).busUsed = s.busUsed := by cases r <;> simp [writeReg]
@[simp] theorem writeReg_waitsGiven : (writeReg r v s).waitsGiven = s.waitsGiven := by cases r <;> simp [writeReg]
@[simp] theorem writeReg_nmiClaimed : (writeReg r v s).nmiClaimed = s.nmiClaimed := by cases r <;> simp [writeReg]
@[simp] theorem writeReg_nmiAccepted : (writeReg r v s).nmiAccepted = s.nmiAccepted := by cases r <;> simp [writeReg]
@[simp] theorem writeReg_refused : (writeReg r v s).refused = s.refused := by cases r <;> simp [writeReg]
@[simp] theorem writeReg_earmic : (writeReg r v s).earmic = s.earmic := by cases r <;> simp [writeReg]
@[simp] theorem writeReg_logs : (writeReg r v s).logs = s.logs := by cases r <;> simp [writeReg]
@[simp] theorem writeReg_lastLogTs : (writeReg r v s).lastLogTs = s.lastLogTs := by cases r <;> simp [writeReg]
@[simp] theorem writeReg_dev : (writeReg r v s).dev = s.dev := by cases r <;> simp [writeReg]
@[simp] theorem writeReg_ram : (writeReg r v s).ram = s.ram := by cases r <;> simp [writeReg]
@[simp] theorem writeReg_ramGen : (writeReg r v s).ramGen = s.ramGen := by cases r <;> simp [writeReg]
@[simp] theorem writeReg_draws : (writeReg r v s).draws = s.draws := by cases r <;> simp [writeReg]
@[simp] theorem writeReg_blob : (writeReg r v s).blob = s.blob := by cases r <;> simp [writeReg]
@[simp] theorem writeReg_busReply : (writeReg r v s).busReply = s.busReply := by cases r <;> simp [writeReg]
@[simp] theorem writeReg_calls : (writeReg r v s).calls = s.calls := by cases r <;> simp [writeReg]
@[simp] theorem writeReg_payload : (writeReg r v s).payload = s.payload := by cases r <;> simp [writeReg]
@[simp] theorem writeReg_pend : (writeReg r v s).pend = s.pend := by cases r <;> simp [writeReg]
@[simp] theorem writeReg_hostIn : (writeReg r v s).hostIn = s.hostIn := by cases r <;> simp [writeReg]
@[simp] theorem writeReg_cpuIn : (writeReg r v s).cpuIn = s.cpuIn := by cases r <;> simp [writeReg]
@[simp] theorem writeReg_devIn : (writeReg r v s).devIn = s.devIn := by cases r <;> simp [writeReg]

end

section
variable (r : ChipReg) (v : Byte) (s : State)

@[simp] theorem writeChipReg_cfg : (writeChipReg r v s).cfg = s.cfg := by cases r <;> simp [writeChipReg]
@[simp] theorem writeChipReg_tsc : (writeChipReg r v s).tsc = s.tsc := by cases r <;> simp [writeChipReg]
@[simp] theorem writeChipReg_frames : (writeChipReg r v s).frames = s.frames := by cases r <;> simp [writeChipReg]
@[simp] theorem writeChipReg_busy : (writeChipReg r v s).busy = s.busy := by cases r <;> simp [writeChipReg]
@[simp] theorem writeChipReg_stepStart : (writeChipReg r v s).stepStart = s.stepStart := by cases r <;> simp [writeChipReg]
@[simp] theorem writeChipReg_lastBusTs : (writeChipReg r v s).lastBusTs = s.lastBusTs := by cases r <;> simp [writeChipReg]
@[simp] theorem writeChipReg_busUsed : (writeChipReg r v s).busUsed = s.busUsed := by cases r <;> simp [writeChipReg]
@[simp] theorem writeChipReg_waitsGiven : (writeChipReg r v s).waitsGiven = s.waitsGiven := by cases r <;> simp [writeChipReg]
@[simp] theorem writeChipReg_nmiClaimed : (writeChipReg r v s).nmiClaimed = s.nmiClaimed := by cases r <;> simp [writeChipReg]
@[simp] theorem writeChipReg_nmiAccepted : (writeChipReg r v s).nmiAccepted = s.nmiAccepted := by cases r <;> simp [writeChipReg]
@[simp] theorem writeChipReg_refused : (writeChipReg r v s).refused = s.refused := by cases r <;> simp [writeChipReg]
@[simp] theorem writeChipReg_logs : (writeChipReg r v s).logs = s.logs := by cases r <;> simp [writeChipReg]
@[simp] theorem writeChipReg_lastLogTs : (writeChipReg r v s).lastLogTs = s.lastLogTs := by cases r <;> simp [writeChipReg]
@[simp] theorem writeChipReg_dev : (writeChipReg r v s).dev = s.dev := by cases r <;> simp [writeChipReg]
@[simp] theorem writeChipReg_ram : (writeChipReg r v s).ram = s.ram := by cases r <;> simp [writeChipReg]
@[simp] theorem writeChipReg_ramGen : (writeChipReg r v s).ramGen = s.ramGen := by cases r <;> simp [writeChipReg]
@[simp] theorem writeChipReg_draws : (writeChipReg r v s).draws = s.draws := by cases r <;> simp [writeChipReg]
@[simp] theorem writeChipReg_blob : (writeChipReg r v s).blob = s.blob := by cases r <;> simp [writeChipReg]
@[simp] theorem writeChipReg_busReply : (writeChipReg r v s).busReply = s.busReply := by cases r <;> simp [writeChipReg]
@[simp] theorem writeChipReg_calls : (writeChipReg r v s).calls = s.calls := by cases r <;> simp [writeChipReg]
@[simp] theorem writeChipReg_payload : (writeChipReg r v s).payload = s.payload := by cases r <;> simp [writeChipReg]
@[simp] theorem writeChipReg_pend : (writeChipReg r v s).pend = s.pend := by cases r <;> simp [writeChipReg]
@[simp] theorem writeChipReg_hostIn : (writeChipReg r v s).hostIn = s.hostIn := by cases r <;> simp [writeChipReg]
@[simp] theorem writeChipReg_cpuIn : (writeChipReg r v s).cpuIn = s.cpuIn := by cases r <;> simp [writeChipReg]
@[simp] theorem writeChipReg_devIn : (writeChipReg r v s).devIn = s.devIn := by cases r <;> simp [writeChipReg]

end

section
variable (p : Addr) (v : Byte) (r : ChipReg) (s : State)

@[simp] theorem writeIfMatches_cfg : (writeIfMatches p v r s).cfg = s.cfg := by unfold writeIfMatches; split <;> simp
@[simp] theorem writeIfMatches_tsc : (writeIfMatches p v r s).tsc = s.tsc := by unfold writeIfMatches; split <;> simp
@[simp] theorem writeIfMatches_frames : (writeIfMatches p v r s).frames = s.frames := by unfold writeIfMatches; split <;> simp
@[simp] theorem writeIfMatches_busy : (writeIfMatches p v r s).busy = s.busy := by unfold writeIfMatches; split <;> simp
@[simp] theorem writeIfMatches_stepStart : (writeIfMatches p v r s).stepStart = s.stepStart := by unfold writeIfMatches; split <;> simp
@[simp] theorem writeIfMatches_lastBusTs : (writeIfMatches p v r s).lastBusTs = s.lastBusTs := by unfold writeIfMatches; split <;> simp
@[simp] theorem writeIfMatches_busUsed : (writeIfMatches p v r s).busUsed = s.busUsed := by unfold writeIfMatches; split <;> simp
@[simp] theorem writeIfMatches_waitsGiven : (writeIfMatches p v r s).waitsGiven = s.waitsGiven := by unfold writeIfMatches; split <;> simp
@[simp] theorem writeIfMatches_nmiClaimed : (writeIfMatches p v r s).nmiClaimed = s.nmiClaimed := by unfold writeIfMatches; split <;> simp
@[simp] theorem writeIfMatches_nmiAccepted : (writeIfMatches p v r s).nmiAccepted = s.nmiAccepted := by unfold writeIfMatches; split <;> simp
@[simp] theorem writeIfMatches_refused : (writeIfMatches p v r s).refused = s.refused := by unfold writeIfMatches; split <;> simp
@[simp] theorem writeIfMatches_logs : (writeIfMatches p v r s).logs = s.logs := by unfold writeIfMatches; split <;> simp
@[simp] theorem writeIfMatches_lastLogTs : (writeIfMatches p v r s).lastLogTs = s.lastLogTs := by unfold writeIfMatches; split <;> simp
@[simp] theorem writeIfMatches_dev : (writeIfMatches p v r s).dev = s.dev := by unfold writeIfMatches; split <;> simp
@[simp] theorem writeIfMatches_ram : (writeIfMatches p v r s).ram = s.ram := by unfold writeIfMatches; split <;> simp
@[simp] theorem writeIfMatches_ramGen : (writeIfMatches p v r s).ramGen = s.ramGen := by unfold writeIfMatches; split <;> simp
@[simp] theorem writeIfMatches_draws : (writeIfMatches p v r s).draws = s.draws := by unfold writeIfMatches; split <;> simp
@[simp] theorem writeIfMatches_blob : (writeIfMatches p v r s).blob = s.blob := by unfold writeIfMatches; split <;> simp
@[simp] theorem writeIfMatches_busReply : (writeIfMatches p v r s).busReply = s.busReply := by unfold writeIfMatches; split <;> simp
@[simp] theorem writeIfMatches_calls : (writeIfMatches p v r s).calls = s.calls := by unfold writeIfMatches; split <;> simp
@[simp] theorem writeIfMatches_payload : (writeIfMatches p v r s).payload = s.payload := by unfold writeIfMatches; split <;> simp
@[simp] theorem writeIfMatches_pend : (writeIfMatches p v r s).pend = s.pend := by unfold writeIfMatches; split <;> simp
@[simp] theorem writeIfMatches_hostIn : (writeIfMatches p v r s).hostIn = s.hostIn := by unfold writeIfMatches; split <;> simp
@[simp] theorem writeIfMatches_cpuIn : (writeIfMatches p v r s).cpuIn = s.cpuIn := by unfold writeIfMatches; split <;> simp
@[simp] theorem writeIfMatches_devIn : (writeIfMatches p v r s).devIn = s.devIn := by unfold writeIfMatches; split <;> simp

end

/-- What holds before a chipset write and is kept by each register's turn and by `note` holds after it (R345). -/
theorem chipsetWrite_induct (P : State → Prop) (p : Addr) (v : Byte) (ts : Stamp) (s : State) (h0 : P s)
    (hw : ∀ r t, P t → P (writeIfMatches p v r t)) (hn : ∀ t, t.ctrl ≠ .faulted → P t → P (note ts t)) :
    P (chipsetWrite p v ts s) := by
  have step : ∀ (f : State → State), (∀ t, t.ctrl ≠ .faulted → P t → P (f t)) → ∀ t, P t → P (unlessFaulted f t) := by
    intro f hf t ht
    unfold unlessFaulted
    split
    · exact ht
    · exact hf t (by assumption) ht
  exact step _ hn _ (step _ (fun t _ => hw _ t) _ (step _ (fun t _ => hw _ t) _ (step _ (fun t _ => hw _ t) _ (hw _ _ h0))))

section
variable (p : Addr) (v : Byte) (ts : Stamp) (s : State)

@[simp] theorem chipsetWrite_cfg : (chipsetWrite p v ts s).cfg = s.cfg :=
  chipsetWrite_induct (fun t => t.cfg = s.cfg) p v ts s rfl (fun _ _ h => by simpa using h) (fun _ _ h => by simpa using h)
@[simp] theorem chipsetWrite_tsc : (chipsetWrite p v ts s).tsc = s.tsc :=
  chipsetWrite_induct (fun t => t.tsc = s.tsc) p v ts s rfl (fun _ _ h => by simpa using h) (fun _ _ h => by simpa using h)
@[simp] theorem chipsetWrite_frames : (chipsetWrite p v ts s).frames = s.frames :=
  chipsetWrite_induct (fun t => t.frames = s.frames) p v ts s rfl (fun _ _ h => by simpa using h) (fun _ _ h => by simpa using h)
@[simp] theorem chipsetWrite_busy : (chipsetWrite p v ts s).busy = s.busy :=
  chipsetWrite_induct (fun t => t.busy = s.busy) p v ts s rfl (fun _ _ h => by simpa using h) (fun _ _ h => by simpa using h)
@[simp] theorem chipsetWrite_stepStart : (chipsetWrite p v ts s).stepStart = s.stepStart :=
  chipsetWrite_induct (fun t => t.stepStart = s.stepStart) p v ts s rfl (fun _ _ h => by simpa using h) (fun _ _ h => by simpa using h)
@[simp] theorem chipsetWrite_lastBusTs : (chipsetWrite p v ts s).lastBusTs = s.lastBusTs :=
  chipsetWrite_induct (fun t => t.lastBusTs = s.lastBusTs) p v ts s rfl (fun _ _ h => by simpa using h) (fun _ _ h => by simpa using h)
@[simp] theorem chipsetWrite_busUsed : (chipsetWrite p v ts s).busUsed = s.busUsed :=
  chipsetWrite_induct (fun t => t.busUsed = s.busUsed) p v ts s rfl (fun _ _ h => by simpa using h) (fun _ _ h => by simpa using h)
@[simp] theorem chipsetWrite_waitsGiven : (chipsetWrite p v ts s).waitsGiven = s.waitsGiven :=
  chipsetWrite_induct (fun t => t.waitsGiven = s.waitsGiven) p v ts s rfl (fun _ _ h => by simpa using h) (fun _ _ h => by simpa using h)
@[simp] theorem chipsetWrite_nmiClaimed : (chipsetWrite p v ts s).nmiClaimed = s.nmiClaimed :=
  chipsetWrite_induct (fun t => t.nmiClaimed = s.nmiClaimed) p v ts s rfl (fun _ _ h => by simpa using h) (fun _ _ h => by simpa using h)
@[simp] theorem chipsetWrite_nmiAccepted : (chipsetWrite p v ts s).nmiAccepted = s.nmiAccepted :=
  chipsetWrite_induct (fun t => t.nmiAccepted = s.nmiAccepted) p v ts s rfl (fun _ _ h => by simpa using h) (fun _ _ h => by simpa using h)
@[simp] theorem chipsetWrite_refused : (chipsetWrite p v ts s).refused = s.refused :=
  chipsetWrite_induct (fun t => t.refused = s.refused) p v ts s rfl (fun _ _ h => by simpa using h) (fun _ _ h => by simpa using h)
@[simp] theorem chipsetWrite_dev : (chipsetWrite p v ts s).dev = s.dev :=
  chipsetWrite_induct (fun t => t.dev = s.dev) p v ts s rfl (fun _ _ h => by simpa using h) (fun _ _ h => by simpa using h)
@[simp] theorem chipsetWrite_ram : (chipsetWrite p v ts s).ram = s.ram :=
  chipsetWrite_induct (fun t => t.ram = s.ram) p v ts s rfl (fun _ _ h => by simpa using h) (fun _ _ h => by simpa using h)
@[simp] theorem chipsetWrite_ramGen : (chipsetWrite p v ts s).ramGen = s.ramGen :=
  chipsetWrite_induct (fun t => t.ramGen = s.ramGen) p v ts s rfl (fun _ _ h => by simpa using h) (fun _ _ h => by simpa using h)
@[simp] theorem chipsetWrite_draws : (chipsetWrite p v ts s).draws = s.draws :=
  chipsetWrite_induct (fun t => t.draws = s.draws) p v ts s rfl (fun _ _ h => by simpa using h) (fun _ _ h => by simpa using h)
@[simp] theorem chipsetWrite_blob : (chipsetWrite p v ts s).blob = s.blob :=
  chipsetWrite_induct (fun t => t.blob = s.blob) p v ts s rfl (fun _ _ h => by simpa using h) (fun _ _ h => by simpa using h)
@[simp] theorem chipsetWrite_busReply : (chipsetWrite p v ts s).busReply = s.busReply :=
  chipsetWrite_induct (fun t => t.busReply = s.busReply) p v ts s rfl (fun _ _ h => by simpa using h) (fun _ _ h => by simpa using h)
@[simp] theorem chipsetWrite_calls : (chipsetWrite p v ts s).calls = s.calls :=
  chipsetWrite_induct (fun t => t.calls = s.calls) p v ts s rfl (fun _ _ h => by simpa using h) (fun _ _ h => by simpa using h)
@[simp] theorem chipsetWrite_payload : (chipsetWrite p v ts s).payload = s.payload :=
  chipsetWrite_induct (fun t => t.payload = s.payload) p v ts s rfl (fun _ _ h => by simpa using h) (fun _ _ h => by simpa using h)
@[simp] theorem chipsetWrite_pend : (chipsetWrite p v ts s).pend = s.pend :=
  chipsetWrite_induct (fun t => t.pend = s.pend) p v ts s rfl (fun _ _ h => by simpa using h) (fun _ _ h => by simpa using h)
@[simp] theorem chipsetWrite_hostIn : (chipsetWrite p v ts s).hostIn = s.hostIn :=
  chipsetWrite_induct (fun t => t.hostIn = s.hostIn) p v ts s rfl (fun _ _ h => by simpa using h) (fun _ _ h => by simpa using h)
@[simp] theorem chipsetWrite_cpuIn : (chipsetWrite p v ts s).cpuIn = s.cpuIn :=
  chipsetWrite_induct (fun t => t.cpuIn = s.cpuIn) p v ts s rfl (fun _ _ h => by simpa using h) (fun _ _ h => by simpa using h)
@[simp] theorem chipsetWrite_devIn : (chipsetWrite p v ts s).devIn = s.devIn :=
  chipsetWrite_induct (fun t => t.devIn = s.devIn) p v ts s rfl (fun _ _ h => by simpa using h) (fun _ _ h => by simpa using h)

end

/-- What step accumulation does (R164, R459), in its order of checks. -/
theorem accumulate_cases (c : BitVec 32) (s : State) :
    (c = 0 ∧ accumulate c s = raise .zeroStep s) ∨
    (c ≠ 0 ∧ s.cfg.n < c.toNat ∧ accumulate c s = raise .tscOverflow s) ∨
    (c ≠ 0 ∧ c.toNat ≤ s.cfg.n ∧ c.toNat < s.waitsGiven ∧ accumulate c s = raise .tsOrder s) ∨
    (c ≠ 0 ∧ c.toNat ≤ s.cfg.n ∧ s.waitsGiven ≤ c.toNat ∧
      accumulate c s = { s with tsc := BitVec.ofNat 32 (s.tsc.toNat + c.toNat) }) := by
  unfold accumulate
  repeat (first | split | simp_all)

section
variable (c : BitVec 32) (s : State)

@[simp] theorem accumulate_cfg : (accumulate c s).cfg = s.cfg := by unfold accumulate; repeat (first | split | simp)
@[simp] theorem accumulate_frames : (accumulate c s).frames = s.frames := by unfold accumulate; repeat (first | split | simp)
@[simp] theorem accumulate_busy : (accumulate c s).busy = s.busy := by unfold accumulate; repeat (first | split | simp)
@[simp] theorem accumulate_stepStart : (accumulate c s).stepStart = s.stepStart := by unfold accumulate; repeat (first | split | simp)
@[simp] theorem accumulate_lastBusTs : (accumulate c s).lastBusTs = s.lastBusTs := by unfold accumulate; repeat (first | split | simp)
@[simp] theorem accumulate_busUsed : (accumulate c s).busUsed = s.busUsed := by unfold accumulate; repeat (first | split | simp)
@[simp] theorem accumulate_waitsGiven : (accumulate c s).waitsGiven = s.waitsGiven := by unfold accumulate; repeat (first | split | simp)
@[simp] theorem accumulate_nmiClaimed : (accumulate c s).nmiClaimed = s.nmiClaimed := by unfold accumulate; repeat (first | split | simp)
@[simp] theorem accumulate_nmiAccepted : (accumulate c s).nmiAccepted = s.nmiAccepted := by unfold accumulate; repeat (first | split | simp)
@[simp] theorem accumulate_refused : (accumulate c s).refused = s.refused := by unfold accumulate; repeat (first | split | simp)
@[simp] theorem accumulate_border : (accumulate c s).border = s.border := by unfold accumulate; repeat (first | split | simp)
@[simp] theorem accumulate_earmic : (accumulate c s).earmic = s.earmic := by unfold accumulate; repeat (first | split | simp)
@[simp] theorem accumulate_paging : (accumulate c s).paging = s.paging := by unfold accumulate; repeat (first | split | simp)
@[simp] theorem accumulate_mode : (accumulate c s).mode = s.mode := by unfold accumulate; repeat (first | split | simp)
@[simp] theorem accumulate_hsr : (accumulate c s).hsr = s.hsr := by unfold accumulate; repeat (first | split | simp)
@[simp] theorem accumulate_slots : (accumulate c s).slots = s.slots := by unfold accumulate; repeat (first | split | simp)
@[simp] theorem accumulate_logs : (accumulate c s).logs = s.logs := by unfold accumulate; repeat (first | split | simp)
@[simp] theorem accumulate_lastLogTs : (accumulate c s).lastLogTs = s.lastLogTs := by unfold accumulate; repeat (first | split | simp)
@[simp] theorem accumulate_dev : (accumulate c s).dev = s.dev := by unfold accumulate; repeat (first | split | simp)
@[simp] theorem accumulate_ram : (accumulate c s).ram = s.ram := by unfold accumulate; repeat (first | split | simp)
@[simp] theorem accumulate_ramGen : (accumulate c s).ramGen = s.ramGen := by unfold accumulate; repeat (first | split | simp)
@[simp] theorem accumulate_draws : (accumulate c s).draws = s.draws := by unfold accumulate; repeat (first | split | simp)
@[simp] theorem accumulate_blob : (accumulate c s).blob = s.blob := by unfold accumulate; repeat (first | split | simp)
@[simp] theorem accumulate_busReply : (accumulate c s).busReply = s.busReply := by unfold accumulate; repeat (first | split | simp)
@[simp] theorem accumulate_calls : (accumulate c s).calls = s.calls := by unfold accumulate; repeat (first | split | simp)
@[simp] theorem accumulate_payload : (accumulate c s).payload = s.payload := by unfold accumulate; repeat (first | split | simp)
@[simp] theorem accumulate_pend : (accumulate c s).pend = s.pend := by unfold accumulate; repeat (first | split | simp)
@[simp] theorem accumulate_hostIn : (accumulate c s).hostIn = s.hostIn := by unfold accumulate; repeat (first | split | simp)
@[simp] theorem accumulate_cpuIn : (accumulate c s).cpuIn = s.cpuIn := by unfold accumulate; repeat (first | split | simp)
@[simp] theorem accumulate_devIn : (accumulate c s).devIn = s.devIn := by unfold accumulate; repeat (first | split | simp)

end

section
variable (c : BitVec 32) (s : State)

@[simp] theorem commitStep_cfg : (commitStep c s).cfg = s.cfg := by unfold commitStep; split <;> simp
@[simp] theorem commitStep_frames : (commitStep c s).frames = s.frames := by unfold commitStep; split <;> simp
@[simp] theorem commitStep_busy : (commitStep c s).busy = s.busy := by unfold commitStep; split <;> simp
@[simp] theorem commitStep_stepStart : (commitStep c s).stepStart = s.stepStart := by unfold commitStep; split <;> simp
@[simp] theorem commitStep_lastBusTs : (commitStep c s).lastBusTs = s.lastBusTs := by unfold commitStep; split <;> simp
@[simp] theorem commitStep_busUsed : (commitStep c s).busUsed = s.busUsed := by unfold commitStep; split <;> simp
@[simp] theorem commitStep_waitsGiven : (commitStep c s).waitsGiven = s.waitsGiven := by unfold commitStep; split <;> simp
@[simp] theorem commitStep_nmiClaimed : (commitStep c s).nmiClaimed = s.nmiClaimed := by unfold commitStep; split <;> simp
@[simp] theorem commitStep_nmiAccepted : (commitStep c s).nmiAccepted = s.nmiAccepted := by unfold commitStep; split <;> simp
@[simp] theorem commitStep_refused : (commitStep c s).refused = s.refused := by unfold commitStep; split <;> simp
@[simp] theorem commitStep_border : (commitStep c s).border = s.border := by unfold commitStep; split <;> simp
@[simp] theorem commitStep_earmic : (commitStep c s).earmic = s.earmic := by unfold commitStep; split <;> simp
@[simp] theorem commitStep_paging : (commitStep c s).paging = s.paging := by unfold commitStep; split <;> simp
@[simp] theorem commitStep_mode : (commitStep c s).mode = s.mode := by unfold commitStep; split <;> simp
@[simp] theorem commitStep_hsr : (commitStep c s).hsr = s.hsr := by unfold commitStep; split <;> simp
@[simp] theorem commitStep_slots : (commitStep c s).slots = s.slots := by unfold commitStep; split <;> simp
@[simp] theorem commitStep_logs : (commitStep c s).logs = s.logs := by unfold commitStep; split <;> simp
@[simp] theorem commitStep_lastLogTs : (commitStep c s).lastLogTs = s.lastLogTs := by unfold commitStep; split <;> simp
@[simp] theorem commitStep_dev : (commitStep c s).dev = s.dev := by unfold commitStep; split <;> simp
@[simp] theorem commitStep_ram : (commitStep c s).ram = s.ram := by unfold commitStep; split <;> simp
@[simp] theorem commitStep_ramGen : (commitStep c s).ramGen = s.ramGen := by unfold commitStep; split <;> simp
@[simp] theorem commitStep_draws : (commitStep c s).draws = s.draws := by unfold commitStep; split <;> simp
@[simp] theorem commitStep_blob : (commitStep c s).blob = s.blob := by unfold commitStep; split <;> simp
@[simp] theorem commitStep_busReply : (commitStep c s).busReply = s.busReply := by unfold commitStep; split <;> simp
@[simp] theorem commitStep_calls : (commitStep c s).calls = s.calls := by unfold commitStep; split <;> simp
@[simp] theorem commitStep_payload : (commitStep c s).payload = s.payload := by unfold commitStep; split <;> simp
@[simp] theorem commitStep_pend : (commitStep c s).pend = s.pend := by unfold commitStep; split <;> simp
@[simp] theorem commitStep_hostIn : (commitStep c s).hostIn = s.hostIn := by unfold commitStep; split <;> simp
@[simp] theorem commitStep_cpuIn : (commitStep c s).cpuIn = s.cpuIn := by unfold commitStep; split <;> simp
@[simp] theorem commitStep_devIn : (commitStep c s).devIn = s.devIn := by unfold commitStep; split <;> simp

end

/-- Writing the whole table home touches nothing but the table, or raises a fault (R200). -/
theorem remapHome_induct (P : State → Prop) (s : State) (h0 : P s)
    (h : ∀ i t s, P s → P (remap i t s)) : P (remapHome s) := by
  unfold remapHome
  generalize List.range s.cfg.slotCount = l
  induction l generalizing s with
  | nil => exact h0
  | cons i l ih =>
    have hs : P (unlessFaulted (fun s => remap i (homeTarget s.cfg s.paging i) s) s) := by
      unfold unlessFaulted
      split
      · exact h0
      · exact h _ _ _ h0
    exact ih _ hs

section
variable (s : State)

@[simp] theorem remapHome_cfg : (remapHome s).cfg = s.cfg :=
  remapHome_induct (fun t => t.cfg = s.cfg) s rfl (fun i t u h => by simpa using h)
@[simp] theorem remapHome_tsc : (remapHome s).tsc = s.tsc :=
  remapHome_induct (fun t => t.tsc = s.tsc) s rfl (fun i t u h => by simpa using h)
@[simp] theorem remapHome_frames : (remapHome s).frames = s.frames :=
  remapHome_induct (fun t => t.frames = s.frames) s rfl (fun i t u h => by simpa using h)
@[simp] theorem remapHome_busy : (remapHome s).busy = s.busy :=
  remapHome_induct (fun t => t.busy = s.busy) s rfl (fun i t u h => by simpa using h)
@[simp] theorem remapHome_stepStart : (remapHome s).stepStart = s.stepStart :=
  remapHome_induct (fun t => t.stepStart = s.stepStart) s rfl (fun i t u h => by simpa using h)
@[simp] theorem remapHome_lastBusTs : (remapHome s).lastBusTs = s.lastBusTs :=
  remapHome_induct (fun t => t.lastBusTs = s.lastBusTs) s rfl (fun i t u h => by simpa using h)
@[simp] theorem remapHome_busUsed : (remapHome s).busUsed = s.busUsed :=
  remapHome_induct (fun t => t.busUsed = s.busUsed) s rfl (fun i t u h => by simpa using h)
@[simp] theorem remapHome_waitsGiven : (remapHome s).waitsGiven = s.waitsGiven :=
  remapHome_induct (fun t => t.waitsGiven = s.waitsGiven) s rfl (fun i t u h => by simpa using h)
@[simp] theorem remapHome_nmiClaimed : (remapHome s).nmiClaimed = s.nmiClaimed :=
  remapHome_induct (fun t => t.nmiClaimed = s.nmiClaimed) s rfl (fun i t u h => by simpa using h)
@[simp] theorem remapHome_nmiAccepted : (remapHome s).nmiAccepted = s.nmiAccepted :=
  remapHome_induct (fun t => t.nmiAccepted = s.nmiAccepted) s rfl (fun i t u h => by simpa using h)
@[simp] theorem remapHome_refused : (remapHome s).refused = s.refused :=
  remapHome_induct (fun t => t.refused = s.refused) s rfl (fun i t u h => by simpa using h)
@[simp] theorem remapHome_border : (remapHome s).border = s.border :=
  remapHome_induct (fun t => t.border = s.border) s rfl (fun i t u h => by simpa using h)
@[simp] theorem remapHome_earmic : (remapHome s).earmic = s.earmic :=
  remapHome_induct (fun t => t.earmic = s.earmic) s rfl (fun i t u h => by simpa using h)
@[simp] theorem remapHome_paging : (remapHome s).paging = s.paging :=
  remapHome_induct (fun t => t.paging = s.paging) s rfl (fun i t u h => by simpa using h)
@[simp] theorem remapHome_mode : (remapHome s).mode = s.mode :=
  remapHome_induct (fun t => t.mode = s.mode) s rfl (fun i t u h => by simpa using h)
@[simp] theorem remapHome_hsr : (remapHome s).hsr = s.hsr :=
  remapHome_induct (fun t => t.hsr = s.hsr) s rfl (fun i t u h => by simpa using h)
@[simp] theorem remapHome_logs : (remapHome s).logs = s.logs :=
  remapHome_induct (fun t => t.logs = s.logs) s rfl (fun i t u h => by simpa using h)
@[simp] theorem remapHome_lastLogTs : (remapHome s).lastLogTs = s.lastLogTs :=
  remapHome_induct (fun t => t.lastLogTs = s.lastLogTs) s rfl (fun i t u h => by simpa using h)
@[simp] theorem remapHome_dev : (remapHome s).dev = s.dev :=
  remapHome_induct (fun t => t.dev = s.dev) s rfl (fun i t u h => by simpa using h)
@[simp] theorem remapHome_ram : (remapHome s).ram = s.ram :=
  remapHome_induct (fun t => t.ram = s.ram) s rfl (fun i t u h => by simpa using h)
@[simp] theorem remapHome_ramGen : (remapHome s).ramGen = s.ramGen :=
  remapHome_induct (fun t => t.ramGen = s.ramGen) s rfl (fun i t u h => by simpa using h)
@[simp] theorem remapHome_draws : (remapHome s).draws = s.draws :=
  remapHome_induct (fun t => t.draws = s.draws) s rfl (fun i t u h => by simpa using h)
@[simp] theorem remapHome_blob : (remapHome s).blob = s.blob :=
  remapHome_induct (fun t => t.blob = s.blob) s rfl (fun i t u h => by simpa using h)
@[simp] theorem remapHome_busReply : (remapHome s).busReply = s.busReply :=
  remapHome_induct (fun t => t.busReply = s.busReply) s rfl (fun i t u h => by simpa using h)
@[simp] theorem remapHome_calls : (remapHome s).calls = s.calls :=
  remapHome_induct (fun t => t.calls = s.calls) s rfl (fun i t u h => by simpa using h)
@[simp] theorem remapHome_payload : (remapHome s).payload = s.payload :=
  remapHome_induct (fun t => t.payload = s.payload) s rfl (fun i t u h => by simpa using h)
@[simp] theorem remapHome_pend : (remapHome s).pend = s.pend :=
  remapHome_induct (fun t => t.pend = s.pend) s rfl (fun i t u h => by simpa using h)
@[simp] theorem remapHome_hostIn : (remapHome s).hostIn = s.hostIn :=
  remapHome_induct (fun t => t.hostIn = s.hostIn) s rfl (fun i t u h => by simpa using h)
@[simp] theorem remapHome_cpuIn : (remapHome s).cpuIn = s.cpuIn :=
  remapHome_induct (fun t => t.cpuIn = s.cpuIn) s rfl (fun i t u h => by simpa using h)
@[simp] theorem remapHome_devIn : (remapHome s).devIn = s.devIn :=
  remapHome_induct (fun t => t.devIn = s.devIn) s rfl (fun i t u h => by simpa using h)

end

end Sys2Proof.Machine
end

