-- ==== Sys2Proof/Laws/PerInstr.lean ====
section
/-! SUPPORT. What holds of every operation as syntax, one lemma a constructor. -/

namespace Sys2Proof.Laws.EncodeChannel

/-- The word of an operation travels on its channel, whose words have four or eight bytes (R110). -/
def Statement (i : Instr) : Prop :=
  (wordBytes (encode i)).length = match i.channel with
    | .host => 4
    | .bus => 8

theorem runFrame : Statement .runFrame := rfl

theorem ensureFrame : Statement .ensureFrame := rfl

theorem step (dbg : Bool) : Statement (.step dbg) := rfl

theorem reset (hard : Bool) : Statement (.reset hard) := rfl

theorem nmi : Statement .nmi := rfl

theorem mapPaged (pool : Bool) (mask : BitVec 8) : Statement (.mapPaged pool mask) := rfl

theorem mapRomBank (slot bank : BitVec 8) : Statement (.mapRomBank slot bank) := rfl

theorem mapRamBank (slot bank : BitVec 8) : Statement (.mapRamBank slot bank) := rfl

theorem rdreg (reg : BitVec 8) (idx : BitVec 16) : Statement (.rdreg reg idx) := rfl

theorem wrreg (reg value : BitVec 8) : Statement (.wrreg reg value) := rfl

theorem attach (parent : BitVec 8) (tag : BitVec 16) : Statement (.attach parent tag) := rfl

theorem detach (tag : BitVec 16) : Statement (.detach tag) := rfl

theorem find (tag : BitVec 16) : Statement (.find tag) := rfl

theorem save : Statement .save := rfl

theorem restore : Statement .restore := rfl

theorem swapVariant (variant : BitVec 8) : Statement (.swapVariant variant) := rfl

theorem fetch (addr : Addr) (ts : Stamp) : Statement (.fetch addr ts) := rfl

theorem memRead (addr : Addr) (ts : Stamp) : Statement (.memRead addr ts) := rfl

theorem memWrite (data : Byte) (addr : Addr) (ts : Stamp) : Statement (.memWrite data addr ts) := rfl

theorem ioRead (port : Addr) (ts : Stamp) : Statement (.ioRead port ts) := rfl

theorem ioWrite (data : Byte) (port : Addr) (ts : Stamp) : Statement (.ioWrite data port ts) := rfl

theorem contend (addr : Addr) (ts : Stamp) : Statement (.contend addr ts) := rfl

theorem intSample (ts : Stamp) : Statement (.intSample ts) := rfl

theorem intAck (addr : Addr) (ts : Stamp) : Statement (.intAck addr ts) := rfl

end Sys2Proof.Laws.EncodeChannel
end

