-- ==== Sys2Proof/Laws/Ram.lean ====
section
/-! SUPPORT. The RAM store: read after write, and every memory operation keeps the canonical form. -/

namespace Sys2Proof.Machine

@[simp] theorem ramGet_nil (a : Nat) : ramGet [] a = none := rfl

theorem ramGet_cons (k : Nat) (w : Byte) (m : List Host.Cell) (a : Nat) :
    ramGet ((k, w) :: m) a = if k = a then some w else ramGet m a := rfl

/-- A read of the address just written gives the value written. -/
@[simp] theorem ramGet_ramSet_same (m : List Host.Cell) (a : Nat) (v : Byte) : ramGet (ramSet m a v) a = some v := by
  induction m with
  | nil => simp [ramSet, ramGet]
  | cons p m ih =>
    obtain ⟨k, w⟩ := p
    simp only [ramSet]
    split
    · simp [ramGet]
    · split
      · simp [ramGet]
      · rename_i h1 h2
        simp [ramGet, ih, Ne.symm h2]

/-- A write leaves every other address alone. -/
theorem ramGet_ramSet_other (m : List Host.Cell) {a b : Nat} (v : Byte) (h : b ≠ a) :
    ramGet (ramSet m a v) b = ramGet m b := by
  induction m with
  | nil => simp [ramSet, ramGet, Ne.symm h]
  | cons p m ih =>
    obtain ⟨k, w⟩ := p
    simp only [ramSet]
    split
    · simp [ramGet, Ne.symm h]
    · split
      · rename_i h2
        subst h2
        simp [ramGet, Ne.symm h]
      · simp [ramGet, ih]

/-- The canonical form as a list fact: addresses strictly rising. -/
theorem ramWf_iff (m : List Host.Cell) : ramWf m = true ↔ m.Pairwise (fun p q => p.1 < q.1) := by
  induction m with
  | nil => simp [ramWf]
  | cons p m ih =>
    cases m with
    | nil => simp [ramWf]
    | cons q m =>
      obtain ⟨a, v⟩ := p
      obtain ⟨b, w⟩ := q
      simp only [ramWf, Bool.and_eq_true, decide_eq_true_eq, ih, List.pairwise_cons]
      constructor
      · rintro ⟨hab, hb, hm⟩
        refine ⟨?_, hb, hm⟩
        intro r hr
        rcases List.mem_cons.1 hr with rfl | hr
        · exact hab
        · exact lt_trans hab (hb r hr)
      · rintro ⟨ha, hb, hm⟩
        exact ⟨ha (b, w) List.mem_cons_self, hb, hm⟩

/-- What a write can list: the written cell, or a cell listed before. -/
theorem mem_ramSet {m : List Host.Cell} {a : Nat} {v : Byte} {p : Host.Cell} (h : p ∈ ramSet m a v) :
    p = (a, v) ∨ p ∈ m := by
  induction m with
  | nil => simp only [ramSet, List.mem_singleton] at h; exact .inl h
  | cons q m ih =>
    obtain ⟨k, w⟩ := q
    simp only [ramSet] at h
    split at h
    · rcases List.mem_cons.1 h with h | h
      · exact .inl h
      · exact .inr h
    · split at h
      · rcases List.mem_cons.1 h with h | h
        · exact .inl h
        · exact .inr (List.mem_cons_of_mem _ h)
      · rcases List.mem_cons.1 h with h | h
        · exact .inr (by simp [h])
        · rcases ih h with h | h
          · exact .inl h
          · exact .inr (List.mem_cons_of_mem _ h)

/-- A write keeps the canonical form. -/
theorem ramSet_wf {m : List Host.Cell} (a : Nat) (v : Byte) (h : ramWf m = true) : ramWf (ramSet m a v) = true := by
  rw [ramWf_iff] at h ⊢
  induction m with
  | nil => simp [ramSet]
  | cons q m ih =>
    obtain ⟨k, w⟩ := q
    rw [List.pairwise_cons] at h
    simp only [ramSet]
    split
    · rename_i hak
      rw [List.pairwise_cons, List.pairwise_cons]
      refine ⟨?_, h⟩
      intro r hr
      rcases List.mem_cons.1 hr with rfl | hr
      · exact hak
      · exact lt_trans hak (h.1 r hr)
    · split
      · rename_i hak
        subst hak
        exact List.pairwise_cons.2 h
      · rename_i h1 h2
        rw [List.pairwise_cons]
        refine ⟨?_, ih h.2⟩
        intro r hr
        rcases mem_ramSet hr with rfl | hr
        · show k < a; omega
        · exact h.1 r hr

theorem ramGet_append (m n : List Host.Cell) (a : Nat) :
    ramGet (m ++ n) a = (ramGet m a).or (ramGet n a) := by
  induction m with
  | nil => simp
  | cons p m ih =>
    obtain ⟨k, w⟩ := p
    simp only [List.cons_append, ramGet_cons, ih]
    split <;> simp

/-- The store built from a function reads as the function, below its bound. -/
theorem ramGet_ramOfFn (n : Nat) (f : Nat → Option Byte) (a : Nat) :
    ramGet (ramOfFn n f) a = if a < n then f a else none := by
  induction n with
  | zero => simp [ramOfFn]
  | succ n ih =>
    have hs : ramOfFn (n + 1) f = ramOfFn n f ++ (((f n).map fun v => (n, v)).toList) := by
      simp only [ramOfFn, List.range_succ, List.filterMap_append, List.filterMap_cons, List.filterMap_nil]
      cases f n <;> simp
    rw [hs, ramGet_append, ih]
    rcases Nat.lt_trichotomy a n with h | h | h
    · rw [if_pos h, if_pos (by omega)]
      cases hf : f a with
      | some v => simp
      | none =>
        cases hn : f n with
        | none => simp
        | some w => simp [ramGet_cons, show ¬ n = a by omega]
    · subst h
      simp only [lt_irrefl, if_false, Nat.lt_succ_self, if_true, Option.none_or]
      cases f a <;> simp [ramGet_cons]
    · rw [if_neg (by omega), if_neg (by omega)]
      cases hn : f n with
      | none => simp
      | some w => simp [ramGet_cons, show ¬ n = a by omega]

/-- Every cell of a store built from a function lies below the bound. -/
theorem lt_of_mem_ramOfFn {n : Nat} {f : Nat → Option Byte} {p : Host.Cell} (h : p ∈ ramOfFn n f) : p.1 < n := by
  simp only [ramOfFn, List.mem_filterMap, List.mem_range, Option.map_eq_some_iff] at h
  obtain ⟨a, ha, v, -, rfl⟩ := h
  exact ha

/-- The store built from a function is in canonical form. -/
theorem ramOfFn_wf (n : Nat) (f : Nat → Option Byte) : ramWf (ramOfFn n f) = true := by
  rw [ramWf_iff]
  unfold ramOfFn
  rw [List.pairwise_filterMap]
  refine (List.pairwise_lt_range (n := n)).imp ?_
  intro a b hab p hp q hq
  simp only [Option.map_eq_some_iff] at hp hq
  obtain ⟨v, -, rfl⟩ := hp
  obtain ⟨w, -, rfl⟩ := hq
  exact hab

theorem ramOfBytes_eq (bs : List Byte) (k : Nat) :
    ramWf ((bs.zipIdx k).map fun p => (p.2, p.1)) = true ∧
      (∀ p ∈ (bs.zipIdx k).map (fun p => (p.2, p.1)), k ≤ p.1 ∧ p.1 < k + bs.length) ∧
      ∀ a, ramGet ((bs.zipIdx k).map fun p => (p.2, p.1)) (k + a) = bs[a]? := by
  induction bs generalizing k with
  | nil => simp [ramWf]
  | cons b bs ih =>
    obtain ⟨hw, hm, hg⟩ := ih (k + 1)
    simp only [List.zipIdx_cons, List.map_cons, List.length_cons]
    refine ⟨?_, ?_, ?_⟩
    · rw [ramWf_iff, List.pairwise_cons]
      exact ⟨fun p hp => by have := hm p hp; show k < p.1; omega, (ramWf_iff _).1 hw⟩
    · intro p hp
      rcases List.mem_cons.1 hp with rfl | hp
      · simp
      · have := hm p hp; omega
    · intro a
      cases a with
      | zero => simp [ramGet_cons]
      | succ a =>
        have := hg a
        rw [ramGet_cons, if_neg (by omega), List.getElem?_cons_succ, ← this]
        congr 1; omega

/-- The store restored from bytes is in canonical form. -/
theorem ramOfBytes_wf (bs : List Byte) : ramWf (ramOfBytes bs) = true := (ramOfBytes_eq bs 0).1

/-- Every cell of a store restored from bytes lies below their number. -/
theorem lt_of_mem_ramOfBytes {bs : List Byte} {p : Host.Cell} (h : p ∈ ramOfBytes bs) : p.1 < bs.length := by
  have := ((ramOfBytes_eq bs 0).2.1 p h).2
  omega

/-- The store restored from bytes reads as the bytes. -/
theorem ramGet_ramOfBytes (bs : List Byte) (a : Nat) : ramGet (ramOfBytes bs) a = bs[a]? := by
  have := (ramOfBytes_eq bs 0).2.2 a
  rwa [Nat.zero_add] at this

/-- Reset's store is in canonical form. -/
theorem reset_ram_wf : ramWf State.reset.ram = true := rfl

/-- The byte just stored is read. -/
@[simp] theorem ramByte_ramStore_same (a : Nat) (v : Byte) (s : State) : ramByte (ramStore a v s) a = v := by
  simp [ramByte]

/-- A store leaves every other byte alone. -/
theorem ramByte_ramStore_other {a b : Nat} (v : Byte) (s : State) (h : b ≠ a) :
    ramByte (ramStore a v s) b = ramByte s b := by
  simp [ramByte, ramGet_ramSet_other _ _ h]

end Sys2Proof.Machine
end

