-- ==== Sys2Proof/Laws/Settle.lean ====
section
/-! SUPPORT. What a micro-step, a run through the agents' answers, a bus cycle and a step can do, each said once. -/

namespace Sys2Proof.Machine

/-- Everything a micro-step can be (R17). -/
theorem micro_cases {s t : State} (h : micro s = some t) :
    (∃ c e es, s.pend = .cpu c ∧ s.cpuIn = e :: es ∧ t = cpuEvent c e { s with cpuIn := es }) ∨
    (∃ c d w e es, s.pend = .io c d w ∧ s.devIn = e :: es ∧ t = ioEvent c d w e { s with devIn := es }) ∨
    (∃ k n e es, s.pend = .notify k n ∧ s.devIn = e :: es ∧ t = noticeEvent k n e { s with devIn := es }) := by
  unfold micro at h
  split at h
  · simp at h
  · rename_i c hp
    split at h
    · simp at h
    · rename_i e es hq
      exact .inl ⟨c, e, es, hp, hq, (Option.some.inj h).symm⟩
  · rename_i c d w hp
    split at h
    · simp at h
    · rename_i e es hq
      exact .inr (.inl ⟨c, d, w, e, es, hp, hq, (Option.some.inj h).symm⟩)
  · rename_i k n hp
    split at h
    · simp at h
    · rename_i e es hq
      exact .inr (.inr ⟨k, n, e, es, hp, hq, (Option.some.inj h).symm⟩)

/-- What every micro-step keeps, a run through the answers keeps. -/
theorem settle_keeps (P : State → Prop) (hm : ∀ s t, micro s = some t → P s → P t) (n : Nat) (s : State) (h : P s) :
    P (settle n s) := by
  induction n generalizing s with
  | zero => exact h
  | succ n ih =>
    unfold settle
    split
    · exact h
    · rename_i t ht
      exact ih t (hm s t ht h)

/-- What every micro-step keeps, a command's run keeps (R17). -/
theorem settleAll_keeps (P : State → Prop) (hm : ∀ s t, micro s = some t → P s → P t) (s : State) (h : P s) :
    P (settleAll s) := settle_keeps P hm _ s h

/-- With no call outstanding the command has ended. -/
theorem micro_idle {s : State} (h : s.pend = .idle) : micro s = none := by simp [micro, h]

theorem settle_idle {s : State} (h : s.pend = .idle) (n : Nat) : settle n s = s := by
  cases n <;> simp [settle, micro_idle h]

theorem settleAll_idle {s : State} (h : s.pend = .idle) : settleAll s = s := settle_idle h _

/-- A called CPU that has answered is heard. -/
theorem settle_cpu {s : State} {c : CpuCall} {e : CpuEvent} {es : List CpuEvent} (hp : s.pend = .cpu c)
    (hq : s.cpuIn = e :: es) (n : Nat) : settle (n + 1) s = settle n (cpuEvent c e { s with cpuIn := es }) := by
  simp [settle, micro, hp, hq]

/-- A called CPU that has not answered is waited for. -/
theorem settle_cpu_wait {s : State} {c : CpuCall} (hp : s.pend = .cpu c) (hq : s.cpuIn = []) (n : Nat) :
    settle n s = s := by cases n <;> simp [settle, micro, hp, hq]

/-- A notified device that has answered is heard. -/
theorem settle_notify {s : State} {k : Nat} {m : Notice} {e : DevEvent} {es : List DevEvent} (hp : s.pend = .notify k m)
    (hq : s.devIn = e :: es) (n : Nat) : settle (n + 1) s = settle n (noticeEvent k m e { s with devIn := es }) := by
  simp [settle, micro, hp, hq]

/-- A device called for I/O that has answered is heard. -/
theorem settle_io {s : State} {c : CpuCall} {d : Dir} {w : BitVec 32} {e : DevEvent} {es : List DevEvent}
    (hp : s.pend = .io c d w) (hq : s.devIn = e :: es) (n : Nat) :
    settle (n + 1) s = settle n (ioEvent c d w e { s with devIn := es }) := by
  simp [settle, micro, hp, hq]

/-- What each answer of a device called for I/O keeps, the whole device call keeps. -/
theorem settleIo_keeps (P : State → Prop)
    (hio : ∀ s c d w e es, s.pend = .io c d w → s.devIn = e :: es → P s → P (ioEvent c d w e { s with devIn := es }))
    (n : Nat) (s : State) (h : P s) : P (settleIo n s) := by
  induction n generalizing s with
  | zero => exact h
  | succ n ih =>
    unfold settleIo
    split
    · rename_i c d w e es hp hq
      exact ih _ (hio s c d w e es hp hq h)
    · exact h
    · exact h
    · exact h
    · exact h

/-- A device that returns at once ends its call (R331, R352, R353). -/
theorem settleIoAll_ret {s : State} {c : CpuCall} {d : Dir} {w : BitVec 32} {v : Byte} {b : Bool} {es : List DevEvent}
    (hp : s.pend = .io c d w) (hq : s.devIn = .ret v b :: es) :
    settleIoAll s = ioEvent c d w (.ret v b) { s with devIn := es } := by
  have stop : ∀ n (t : State), t.pend = .cpu c → settleIo n t = t := by
    intro n t ht
    cases n with
    | zero => rfl
    | succ n => unfold settleIo; rw [ht]
  have hpend : (ioEvent c d w (.ret v b) { s with devIn := es }).pend = .cpu c := by
    simp only [ioEvent]
    split
    · rfl
    · split <;> rfl
  unfold settleIoAll
  rw [hq, List.length_cons]
  unfold settleIo
  rw [hp, hq]
  exact stop _ _ hpend

/-- Inside a CPU call that carries bus words, a cycle whose timestamp passes is served (R194). -/
theorem busCycle_serving {s : State} {ts : Stamp} (f : CpuCall → State → State) (hs : s.Serving) (ht : s.StampOk ts) :
    ∃ c, s.pend = .cpu c ∧ busCycle ts f s = f c (s.atBus ts) := by
  obtain ⟨hc, hp⟩ := hs
  have hno : ¬ (ts.toNat < s.lastBusTs.toNat ∨ 2 * s.cfg.n ≤ ts.toNat) := by
    obtain ⟨h1, h2⟩ := ht
    omega
  rcases hp with ⟨b, hp⟩ | ⟨b, hp⟩
  · exact ⟨_, hp, by simp [busCycle, hc, hp, hno, State.atBus]⟩
  · exact ⟨_, hp, by simp [busCycle, hc, hp, hno, State.atBus]⟩

/-- Everything a bus word's entry can do: ignored, faulted with its timestamp, faulted for its call, or served (R194,
R412). -/
theorem busCycle_cases (ts : Stamp) (f : CpuCall → State → State) (s : State) :
    (s.ctrl = .faulted ∧ busCycle ts f s = { s with busReply := BusReply.zero }) ∨
    (s.ctrl ≠ .faulted ∧ busCycle ts f s = busFault .tsOrder { s with busUsed := true }) ∨
    (s.ctrl ≠ .faulted ∧ busCycle ts f s = busFault .cpuFault s) ∨
    (s.Serving ∧ s.StampOk ts ∧ ∃ c, s.pend = .cpu c ∧ ((∃ b, c = .step b) ∨ (∃ b, c = .nmi b)) ∧
      busCycle ts f s = f c (s.atBus ts)) := by
  by_cases hc : s.ctrl = .faulted
  · exact .inl ⟨hc, by unfold busCycle; rw [if_pos hc]⟩
  by_cases hb : ts.toNat < s.lastBusTs.toNat ∨ 2 * s.cfg.n ≤ ts.toNat
  · cases hp : s.pend with
    | cpu c => cases c <;> simp [busCycle, hc, hp, hb]
    | idle => simp [busCycle, hc, hp]
    | io c d w => simp [busCycle, hc, hp]
    | notify k n => simp [busCycle, hc, hp]
  · have ht : s.StampOk ts := by constructor <;> omega
    cases hp : s.pend with
    | cpu c =>
      cases c with
      | step b =>
        have hs : s.Serving := ⟨hc, .inl ⟨b, hp⟩⟩
        obtain ⟨c, hc', he⟩ := busCycle_serving f hs ht
        rw [hp] at hc'
        injection hc' with hc'
        subst hc'
        exact .inr (.inr (.inr ⟨hs, ht, _, rfl, .inl ⟨b, rfl⟩, he⟩))
      | nmi b =>
        have hs : s.Serving := ⟨hc, .inr ⟨b, hp⟩⟩
        obtain ⟨c, hc', he⟩ := busCycle_serving f hs ht
        rw [hp] at hc'
        injection hc' with hc'
        subst hc'
        exact .inr (.inr (.inr ⟨hs, ht, _, rfl, .inr ⟨b, rfl⟩, he⟩))
      | reset b => exact .inr (.inr (.inl ⟨hc, by simp [busCycle, hc, hp]⟩))
      | save => exact .inr (.inr (.inl ⟨hc, by simp [busCycle, hc, hp]⟩))
      | check => exact .inr (.inr (.inl ⟨hc, by simp [busCycle, hc, hp]⟩))
      | restore => exact .inr (.inr (.inl ⟨hc, by simp [busCycle, hc, hp]⟩))
    | idle => exact .inr (.inr (.inl ⟨hc, by simp [busCycle, hc, hp]⟩))
    | io c d w => exact .inr (.inr (.inl ⟨hc, by simp [busCycle, hc, hp]⟩))
    | notify k n => exact .inr (.inr (.inl ⟨hc, by simp [busCycle, hc, hp]⟩))

/-- While a step or an NMI entry is served, the bus channel carries words (R110). -/
theorem onBus_serving {s : State} (f : State → State) (hs : s.Serving) : onBus f s = .next (f s) := by
  rcases hs.2 with ⟨b, hp⟩ | ⟨b, hp⟩ <;> simp [onBus, inCpuCall, hp]

/-- Everything a bus word's meaning can answer (R110). -/
theorem onBus_cases (f : State → State) (s : State) :
    ((∃ c, s.pend = .cpu c) ∧ onBus f s = .next (f s)) ∨
    ((∀ c, s.pend ≠ .cpu c) ∧ onBus f s = .fault .busWordOutsideCall) := by
  unfold onBus inCpuCall
  cases hp : s.pend <;> simp

/-- Everything a step can be: a decoded operation run, an illegal host word accepted as such, a bus word that spells no
cycle, a micro-step, or a wait. -/
theorem step_cases (s : State) :
    (∃ h hs i, s.pend = .idle ∧ s.hostIn = h :: hs ∧ decodeHost h.word = .ok i ∧
      step s = exec i { s with hostIn := hs, payload := h.payload }) ∨
    (∃ h hs r, s.pend = .idle ∧ s.hostIn = h :: hs ∧ decodeHost h.word = .error r ∧
      step s = .next (acceptIllegal { s with hostIn := hs, payload := h.payload })) ∨
    (∃ c w es i, s.pend = .cpu c ∧ s.cpuIn = .bus w :: es ∧ decodeBus w = .ok i ∧
      step s = exec i { s with cpuIn := es }) ∨
    (∃ c w es r, s.pend = .cpu c ∧ s.cpuIn = .bus w :: es ∧ decodeBus w = .error r ∧
      step s = .next (badBusWord { s with cpuIn := es })) ∨
    (∃ t, micro s = some t ∧ step s = .next t) ∨
    step s = .next s := by
  unfold step fetchNext
  cases hp : s.pend with
  | idle =>
    cases hq : s.hostIn with
    | nil => simp [fetchHost, hq]
    | cons h hs =>
      cases hd : decodeHost h.word with
      | ok i => exact .inl ⟨h, hs, i, rfl, rfl, hd, by simp [fetchHost, hp, hq, hd]⟩
      | error r => exact .inr (.inl ⟨h, hs, r, rfl, rfl, hd, by simp [fetchHost, hp, hq, hd]⟩)
  | cpu c =>
    cases hq : s.cpuIn with
    | nil => simp [fetchCpu, hq]
    | cons e es =>
      cases e with
      | bus w =>
        cases hd : decodeBus w with
        | ok i => exact .inr (.inr (.inl ⟨c, w, es, i, rfl, rfl, hd, by simp [fetchCpu, hp, hq, hd]⟩))
        | error r => exact .inr (.inr (.inr (.inl ⟨c, w, es, r, rfl, rfl, hd, by simp [fetchCpu, hp, hq, hd]⟩)))
      | command w =>
        exact .inr (.inr (.inr (.inr (.inl ⟨cpuEvent c (.command w) { s with cpuIn := es },
          by simp [micro, hp, hq], by simp [fetchCpu, hp, hq]⟩))))
      | ret r =>
        exact .inr (.inr (.inr (.inr (.inl ⟨cpuEvent c (.ret r) { s with cpuIn := es },
          by simp [micro, hp, hq], by simp [fetchCpu, hp, hq]⟩))))
  | io c d w =>
    cases hq : s.devIn with
    | nil => simp [micro, hp, hq]
    | cons e es =>
      exact .inr (.inr (.inr (.inr (.inl ⟨ioEvent c d w e { s with devIn := es },
        by simp [micro, hp, hq], by simp [micro, hp, hq]⟩))))
  | notify k n =>
    cases hq : s.devIn with
    | nil => simp [micro, hp, hq]
    | cons e es =>
      exact .inr (.inr (.inr (.inr (.inl ⟨noticeEvent k n e { s with devIn := es },
        by simp [micro, hp, hq], by simp [micro, hp, hq]⟩))))

end Sys2Proof.Machine
end

