-- ==== Sys2Proof/Tests/Slice0.lean ====
section
/-! SUPPORT. Tests of one step each, their expected results from spec/95_test_vectors.md and the rules' own examples, and a
witness for the hypotheses of every statement. -/

namespace Sys2Proof.Tests

open Sys2Proof Sys2Proof.Machine

/-! Well-formedness (R112): ATTACH with tag 0 is refused, whatever the parent. -/

theorem test_wellFormed_attach_tag_zero : (Instr.attach 0xFF 0).wellFormed = false := by decide
theorem test_wellFormed_attach : (Instr.attach 0xFF 1).wellFormed = true := by decide

/-! Words written out from R112, R116 and R137 decode to what they stand for. -/

theorem test_decode_runFrame : decodeHost 0x01000000 = .ok .runFrame := by decide
theorem test_decode_ensureFrame : decodeHost 0x02000000 = .ok .ensureFrame := by decide
theorem test_decode_step : decodeHost 0x03010000 = .ok (.step true) := by decide
theorem test_decode_reset : decodeHost 0x04010000 = .ok (.reset true) := by decide
theorem test_decode_nmi : decodeHost 0x05000000 = .ok .nmi := by decide
theorem test_decode_mapPaged : decodeHost 0x06010081 = .ok (.mapPaged true 0x81) := by decide
theorem test_decode_mapRomBank : decodeHost 0x0702000C = .ok (.mapRomBank 2 12) := by decide
theorem test_decode_mapRamBank : decodeHost 0x08070003 = .ok (.mapRamBank 7 3) := by decide
theorem test_decode_rdreg : decodeHost 0x09312001 = .ok (.rdreg 0x31 0x2001) := by decide
theorem test_decode_wrreg : decodeHost 0x0A1200F1 = .ok (.wrreg 0x12 0xF1) := by decide
theorem test_decode_attach : decodeHost 0x0BFF8007 = .ok (.attach 0xFF 0x8007) := by decide
theorem test_decode_detach : decodeHost 0x0C008001 = .ok (.detach 0x8001) := by decide
theorem test_decode_find : decodeHost 0x0D000103 = .ok (.find 0x103) := by decide
theorem test_decode_save : decodeHost 0x0E000000 = .ok .save := by decide
theorem test_decode_restore : decodeHost 0x0F000000 = .ok .restore := by decide
theorem test_decode_swapVariant : decodeHost 0x10020000 = .ok (.swapVariant 2) := by decide
theorem test_decode_fetch : decodeBus 0x10008000000114F4 = .ok (.fetch 0x8000 70900) := by decide
theorem test_decode_memRead : decodeBus 0x20004000000037FF = .ok (.memRead 0x4000 14335) := by decide
theorem test_decode_memWrite : decodeBus 0x30AAC00000000010 = .ok (.memWrite 0xAA 0xC000 16) := by decide
theorem test_decode_ioRead : decodeBus 0x4000001F0000000F = .ok (.ioRead 0x1F 15) := by decide
theorem test_decode_ioWrite : decodeBus 0x50257FFD0000001B = .ok (.ioWrite 0x25 0x7FFD 27) := by decide
theorem test_decode_contend : decodeBus 0x6000400000003800 = .ok (.contend 0x4000 14336) := by decide
theorem test_decode_intSample : decodeBus 0x700000000000001F = .ok (.intSample 31) := by decide
theorem test_decode_intAck : decodeBus 0x800000FF00000004 = .ok (.intAck 0xFF 4) := by decide

/-- V2.1 to V2.4, V2.6, V2.7. -/
theorem test_host_rejects :
    [decodeHost 0x00000000, decodeHost 0x11000000, decodeHost 0x01000001, decodeHost 0x03020000, decodeHost 0x0BFF0000,
      decodeHost 0x0A100105]
    = [.error .reservedOpcode, .error .reservedOpcode, .error .mustBeZero, .error .mustBeZero, .error .attachTagZero,
      .error .mustBeZero] := by decide

/-- V2.10 to V2.13. -/
theorem test_bus_rejects :
    [decodeBus 0x0000000000000005, decodeBus 0x2100400000000010, decodeBus 0x2001400000000010, decodeBus 0x7000000100000005]
    = [.error .reservedKind, .error .busMustBeZero, .error .dataNotZero, .error .addrNotZero] := by decide

/-- V2.16, V2.17, R139. -/
theorem test_pseudo_instructions :
    encode (asmAttach 7) = .host 0x0BFF0007 ∧ encode asmHome = .host 0x06000000 ∧ encode (asmBorder 5) = .host 0x0A100005 := by
  decide

/-- R137, R138. -/
theorem test_asm_text :
    asmText (.mapPaged true 0x0F) = "MAP_PAGED ex, #0xf" ∧ asmText (.memWrite 0xAA 0xC000 16) = "MWR 0xc000, 0xaa @16" := by
  decide

/-- V2.18 to V2.23. -/
theorem test_entry_words :
    [slotWord ⟨.ram, .home, 5, true⟩, slotWord ⟨.rom, .ex, 8, false⟩, slotWord ⟨.dock, .dock, 1, false⟩,
      slotWord ⟨.ram, .fixed, 3, false⟩, slotWord ⟨.unpopulated, .home, 0, false⟩]
    = [0x8405, 0x2008, 0x4801, 0x6403, 0x0C00] ∧ logEntryWord .shadow ⟨27, 0⟩ = 0x0000001B20000000 := by decide

/-! States the tests start from (95_test_vectors.md section 0). -/

def baseS : State := State.powerOn (Config.base 3 8 4)
def pagedS : State := State.powerOn (Config.paged 8 4)
def scldCfg : Cfg := Config.scld 2000 200 12 9 8 true 14361 192 128 Config.ulaPattern 36 8 4 0
def scldS : State := State.powerOn scldCfg

/-- SCLD with contention delays that WAIT does not hold (log entry 19). -/
def wideWait : State := State.powerOn { scldCfg with contStart := 0, contPattern := List.replicate 8 (2 ^ 32) }

/-- SCLD with extension banks 254 to 273 (log entry 18). -/
def wideEx : State := State.powerOn { scldCfg with romBanks := 300, reservedRomBanks := 280, exPoolBase := 254 }

/-- A CPU that returns with `c` cycles and outcome OK, and accepts what it is asked. -/
def yes (c : BitVec 32) : CpuReply := ⟨c, 0, true, []⟩

/-- A CPU that returns with `c` cycles and outcome OK, and accepts nothing. -/
def no (c : BitVec 32) : CpuReply := ⟨c, 0, false, []⟩

/-- `s` inside STEP's CPU call at TSC. -/
def inStep (s : State) : State := { s with busy := true, ctrl := .singleStepping, pend := .cpu (.step true), stepStart := s.tsc,
                                           lastBusTs := s.tsc }

/-- The outcome is a next state with the property. -/
def nextIs (o : Host.Outcome State Fault Refusal) (p : State → Bool) : Bool :=
  match o with
  | .next t => p t
  | .fault _ => false
  | .refused _ => false

/-- R197's example, with the BREAK of V6.4. -/
theorem test_run_frame : nextIs (exec .runFrame { pagedS with tsc := 70900, cpuIn := [.ret ⟨11, 1, true, []⟩] })
    (fun t => t.tsc = 70911 && t.ctrl = .atFrameBoundary && t.result = .ok && t.frames = 0) = true := by decide

/-- V3.10. -/
theorem test_ensure_frame : nextIs (exec .ensureFrame { pagedS with tsc := 70911, frames := 5, ctrl := .atFrameBoundary })
    (fun t => t.tsc = 3 && t.frames = 6 && t.ctrl = .running) = true := by decide

/-- V3.20: both devices are told before the wrap. -/
theorem test_ensure_frame_devices :
    nextIs (exec .ensureFrame { baseS with tsc := 69890, dev := [⟨1, 0, ⟨10, [], []⟩⟩, ⟨2, 0, ⟨11, [], []⟩⟩],
                                           devIn := [.ret 0 false, .ret 0 false] })
    (fun t => t.tsc = 2 && t.calls = [.clearRenderingCache, .dev 1 11 (.onFrameBoundary 69890),
      .dev 0 10 (.onFrameBoundary 69890)]) = true := by decide

/-- V3.7. -/
theorem test_step_to_the_end : nextIs (exec (.step false) { baseS with tsc := 69887, cpuIn := [.ret (yes 69888)] })
    (fun t => t.tsc = 139775 && t.ctrl = .atFrameBoundary && t.result = .ok) = true := by decide

/-- P1 step 1: three bus words, one of them logged. -/
theorem test_step_with_bus_words :
    nextIs (exec (.step false) { pagedS with tsc := 70900, frames := 5, cpuIn :=
      [.bus 0x10008000000114F4, .bus 0x20008001000114F8, .bus 0x500200FE000114FB, .ret (yes 11)] })
    (fun t => t.tsc = 70911 && t.border = 2 && t.logs.border.entries = [⟨70907, 2⟩] && t.ctrl = .atFrameBoundary
      && t.fault = 0) = true := by decide

/-- V3.5, V3.6, V6.6, V9.1: the faults at a step's end. -/
theorem test_step_faults :
    [0, 69889].map (fun c => nextIs (exec (.step false) { baseS with tsc := 100, cpuIn := [.ret (yes c)] })
      (fun t => t.tsc = 100 && t.ctrl = .faulted && t.fault = (if c = 0 then 0x40 else 0x10)
        && !t.busy && t.result = .faulted)) = [true, true]
    ∧ nextIs (exec (.step false) { baseS with tsc := 100, cpuIn := [.ret ⟨0, 2, true, []⟩] }) (fun t => t.fault = 0x08)
      = true := by decide

/-- V9.2: the bus-timestamp bound comes before ZERO_STEP. R459: two reads of V4.21, with waits of 6, need 12 cycles. -/
theorem test_step_bounds :
    nextIs (exec (.step false) { baseS with tsc := 100, cpuIn := [.bus 0x2000400000000065, .ret (yes 0)] })
      (fun t => t.fault = 0x02 && t.tsc = 100) = true
    ∧ [11, 12].map (fun c => nextIs (exec (.step false) { baseS with
          tsc := 14335, cpuIn := [.bus 0x20004000000037FF, .bus 0x20004000000037FF, .ret (yes c)] })
        (fun t => t.busReply.wait = 6 && t.tsc = (if c = 11 then 14335 else 14347) && t.fault = (if c = 11 then 0x02 else 0)))
      = [true, true] := by decide

/-- V6.11. -/
theorem test_reset_soft :
    nextIs (exec (.reset false) { pagedS with tsc := 9, border := 3, paging := 0x17, cpuIn := [.ret (yes 0)],
                                              logs := { pagedS.logs with border := ⟨3, 3, []⟩ } })
    (fun t => t.border = 0 && t.paging = 0x17 && t.slots = pagedS.slots && t.logs.border.entries = [⟨9, 0⟩] && t.tsc = 9)
    = true := by decide

/-- V6.14: BORDER, MODE and SOURCE entries of one hard reset. -/
theorem test_reset_hard :
    nextIs (exec (.reset true) { scldS with
        tsc := 9, border := 3, mode := 0x86, hsr := 1, slots := scldS.slots.set 0 ⟨.rom, .ex, 8, false⟩,
        cpuIn := [.ret (yes 0)], logs := ⟨⟨1, 1, []⟩, ⟨6, 6, []⟩, ⟨0, 0, []⟩, ⟨1, 1, []⟩⟩ })
    (fun t => t.border = 0 && t.mode = 0 && t.hsr = 0 && t.slots = scldS.slots && t.logs.border.entries = [⟨9, 0⟩]
      && t.logs.mode.entries = [⟨9, 0⟩] && t.logs.source.entries = [⟨9, 0⟩]) = true := by decide

/-- V6.16: the entry's pushes reach RAM bank 5. -/
theorem test_nmi_accepted :
    nextIs (exec .nmi { pagedS with tsc := 1000, cpuIn :=
      [.bus 0x30035FFF000003ED, .bus 0x30E85FFE000003F0, .ret (yes 11)] })
    (fun t => t.tsc = 1011 && t.nmiAccepted && !t.nmiClaimed && t.ram = [(0x15FFE, 0xE8), (0x15FFF, 0x03)]
      && t.result = .ok) = true := by decide

/-- V6.17, V6.18. -/
theorem test_nmi_refused :
    nextIs (exec .nmi { pagedS with tsc := 1000, dev := [⟨1, 0, ⟨10, [], []⟩⟩], devIn := [.ret 0 true],
                                    cpuIn := [.ret (no 0)] })
      (fun t => t.tsc = 1000 && !t.nmiAccepted && t.nmiClaimed && t.result = .ok) = true
    ∧ nextIs (exec .nmi { pagedS with cpuIn := [.ret (no 3)] }) (fun t => t.fault = 0x08) = true := by decide

/-- V4.12: the extension ROM wraps, CONT is 0, one SOURCE entry. -/
theorem test_map_paged :
    nextIs (exec (.mapPaged true 0x0F) { scldS with tsc := 40 })
    (fun t => (t.slots.take 4).map slotWord = [0x2008, 0x2009, 0x200A, 0x2008] && t.hsr = 0x0F && t.mode = 0x80
      && t.logs.source.entries = [⟨40, 0x000F⟩]) = true := by decide

/-- V4.14: a FIXED slot differs from HOME. -/
theorem test_map_paged_fixed :
    nextIs (exec (.mapPaged false 0) { scldS with slots := scldS.slots.set 7 ⟨.ram, .fixed, 3, false⟩ })
    (fun t => slotWord (slotEntry t.slots 7) = 0x0405) = true := by decide

/-- V4.9. -/
theorem test_map_rom_config : nextIs (exec (.mapRomBank 0 1) baseS) (fun t => t.fault = 1 && t.slots = baseS.slots) = true := by
  decide

/-- V4.11. -/
theorem test_map_ram : nextIs (exec (.mapRamBank 2 7) pagedS)
    (fun t => slotWord (slotEntry t.slots 2) = 0xE407 && t.logs = pagedS.logs) = true := by decide

/-- V3.13. -/
theorem test_rdreg_position :
    nextIs (exec (.rdreg 0x05 0) { pagedS with tsc := 14361 }) (fun t => t.value = 62) = true
    ∧ nextIs (exec (.rdreg 0x04 0) { pagedS with tsc := 14361 }) (fun t => t.value = 225) = true := by decide

/-- P2 step 8, V8.2, V8.8. -/
theorem test_rdreg_log :
    nextIs (exec (.rdreg 0x31 0x2001) { pagedS with logs := { pagedS.logs with shadow := ⟨0, 0, [⟨8, 1⟩, ⟨27, 0⟩]⟩ } })
      (fun t => t.value = 0x0000001B20000000) = true
    ∧ nextIs (exec (.rdreg 0x12 0) baseS) (fun t => t.result = .illegal && t.refused) = true
    ∧ nextIs (exec (.rdreg 0x09 0) { baseS with result := .illegal }) (fun t => t.value = 3) = true := by decide

/-- V8.5. -/
theorem test_wrreg_border : nextIs (exec (.wrreg 0x10 5) { baseS with tsc := 100, earmic := 2 })
    (fun t => t.border = 5 && t.earmic = 2 && t.logs.border.entries = [⟨100, 5⟩]) = true := by decide

/-- V4.17. -/
theorem test_wrreg_paging_forced :
    nextIs (exec (.wrreg 0x12 0) { pagedS with paging := 0x27, slots := pagedS.slots.set 3 ⟨.ram, .home, 7, true⟩ })
    (fun t => t.paging = 0 && slotWord (slotEntry t.slots 3) = 0x0400) = true := by decide

/-- `[A(1, d0), B(2, d1), C(3, d0)]`. -/
def chain : List Device := [⟨1, 0, ⟨1, [⟨0x1F, 0x1F⟩], []⟩⟩, ⟨2, 1, ⟨2, [⟨0x1F, 0x1F⟩], []⟩⟩, ⟨3, 0, ⟨3, [], []⟩⟩]

/-- V7.10: after the parent's sub-chain, before its next sibling. -/
theorem test_attach_under :
    nextIs (exec (.attach 0 9) { baseS with dev := chain, payload := .agent ⟨9, [], []⟩ })
    (fun t => t.dev.map (fun d => (d.tag, d.depth)) = [(1, 0), (2, 1), (9, 1), (3, 0)] && t.value = 2) = true := by decide

/-- V7.14, V7.15. -/
theorem test_attach_config :
    nextIs (exec (.attach 0xFF 5) { baseS with dev := chain ++ [⟨4, 0, ⟨4, [], []⟩⟩] }) (fun t => t.fault = 1) = true
    ∧ nextIs (exec (.attach 3 5) { baseS with dev := chain }) (fun t => t.fault = 1) = true := by decide

/-- V7.11. -/
theorem test_detach : nextIs (exec (.detach 1) { baseS with dev := chain })
    (fun t => t.dev = chain.drop 2 && t.value = 2) = true := by decide

/-- V7.12, V7.13. -/
theorem test_find :
    nextIs (exec (.find 3) { baseS with dev := chain.drop 2 }) (fun t => t.value = 0 && t.result = .ok) = true
    ∧ nextIs (exec (.find 1) { baseS with dev := chain.drop 2 }) (fun t => t.result = .notFound) = true := by decide

/-- V8.9: the first 36 bytes of the blob. -/
theorem test_save : nextIs (exec .save { baseS with border := 5, cpuIn := [.ret (yes 0)] })
    (fun t => t.blob.take 36 = [1, 0, 4, 0, 0, 0, 0, 0, 0, 0, 0, 0, 0, 0, 0, 0, 5, 0, 0, 0, 0, 0, 0, 0,
      0x00, 0x00, 0x00, 0x84, 0x01, 0x04, 0x02, 0x04, 0x00, 0xC0, 0x00, 0x00]) = true := by decide

/-- V8.11, V8.12, on a blob's first bytes. -/
theorem test_restore_mismatch :
    nextIs (exec .restore { pagedS with payload := .blob (1 :: 0 :: 4 :: List.replicate 60 0), border := 3 })
    (fun t => t.result = .restoreMismatch && t.border = 3 && t.fault = 0 && t.calls = []) = true := by decide

/-- V8.17, V8.18. -/
theorem test_swap_variant :
    nextIs (exec (.swapVariant 1) { baseS with border := 3, tsc := 5000, frames := 77, dev := chain, refused := true,
                                               payload := .cfg (Config.paged 8 4) })
    (fun t => t.border = 3 && t.paging = 0 && t.slots = pagedS.slots && t.tsc = 0 && t.frames = 0 && t.dev = []
      && t.logs.border = ⟨3, 3, []⟩ && t.refused && t.cfg = Config.paged 8 4) = true := by decide

/-- V8.19: which logical address the new banks 5, 2 and 0 are copied from, and that bank 1 is drawn. -/
theorem test_rechunk :
    [5, 2, 0, 1].map (fun b => rechunkSource (Config.base 3 8 4) (Config.paged 8 4) baseS.slots pagedS.slots (b * 16384 + 7))
    = [some 0x4007, some 0x8007, some 0xC007, none] := by decide

/-- V8.16. -/
theorem test_swap_config : nextIs (exec (.swapVariant 3) { baseS with payload := .cfg (Config.paged 8 4) })
    (fun t => t.fault = 1 && t.ctrl = .faulted) = true := by decide

/-- V4.34: ROM is never contended. -/
theorem test_fetch : nextIs (exec (.fetch 0 0) (inStep pagedS)) (fun t => t.busReply.wait = 0 && t.fault = 0) = true := by
  decide

/-- V4.21, V4.22. -/
theorem test_mem_read :
    nextIs (exec (.memRead 0x4000 14335) (inStep baseS)) (fun t => t.busReply.wait = 6 && t.lastBusTs = 14335) = true
    ∧ nextIs (exec (.memRead 0x8000 14335) (inStep baseS)) (fun t => t.busReply.wait = 0) = true := by decide

/-- R263's example, V4.33. -/
theorem test_mem_write :
    nextIs (exec (.memWrite 0xAA 0xC000 120) (inStep { pagedS with slots := pagedS.slots.set 3 ⟨.ram, .home, 7, true⟩ }))
      (fun t => t.ram = [(7 * 16384, 0xAA)] && t.busReply = ⟨0, false, 0⟩) = true
    ∧ nextIs (exec (.memWrite 0x55 0x0000 10) (inStep pagedS)) (fun t => t.ram = []) = true := by decide

/-- P4 step 4: A answers, B is never called. V4.25: the wait of a port a device answers is given too (R459). -/
theorem test_io_read_first_device :
    nextIs (exec (.ioRead 0x001F 4) (inStep { baseS with dev := chain, devIn := [.ret 0x42 false] }))
    (fun t => t.busReply = ⟨0, false, 0x42⟩ && t.calls = [.dev 0 1 (.read 0x1F 4)]) = true
    ∧ nextIs (exec (.ioRead 0x40FF 14335) (inStep { baseS with
        dev := [⟨1, 0, ⟨1, [⟨0x40FF, 0x40FF⟩], []⟩⟩], devIn := [.ret 0x42 false] }))
      (fun t => t.busReply = ⟨12, false, 0x42⟩ && t.waitsGiven = 12) = true := by decide

/-- V7.7, with any wait. -/
theorem test_io_read_mode (w : BitVec 32) :
    portRead (.step true) 0x00FF 4 w (inStep { scldS with mode := 0x86 })
      = { inStep { scldS with mode := 0x86 } with busReply := ⟨w, false, 0x86⟩, waitsGiven := 0 + w.toNat } := rfl

/-- V7.1: ULA and PAGING both act. -/
theorem test_io_write_both :
    nextIs (exec (.ioWrite 0x07 0x7FFC 200) (inStep pagedS))
    (fun t => t.border = 7 && t.paging = 0x07 && slotWord (slotEntry t.slots 3) = 0x8407
      && t.logs.border.entries = [⟨200, 7⟩] && t.logs.shadow.entries = []) = true := by decide

/-- V4.16, and V5.2's second write. -/
theorem test_io_write_lock_hires :
    nextIs (exec (.ioWrite 0 0x7FFD 5) (inStep { pagedS with paging := 0x27, logs := { pagedS.logs with border := ⟨0, 0, []⟩ } }))
      (fun t => t.paging = 0x27 && t.slots = pagedS.slots && t.logs = pagedS.logs) = true
    ∧ nextIs (.next (portWrite (.step true) 0x00FF 0 900 0 (inStep { scldS with mode := 6, border := 4, logs :=
        ⟨⟨1, 1, []⟩, ⟨6, 6, []⟩, ⟨0, 0, []⟩, ⟨0, 0, []⟩⟩ })))
      (fun t => t.logs.border.entries = [⟨900, 4⟩] && t.logs.mode.entries = [⟨900, 0⟩] && t.logs.source.entries = []) = true
    := by decide

/-- V4.23. -/
theorem test_contend : nextIs (exec (.contend 0x4000 14336) (inStep baseS)) (fun t => t.busReply = ⟨5, false, 0⟩) = true := by
  decide

/-- V6.19, V3.18. -/
theorem test_int_sample :
    nextIs (exec (.intSample 31) (inStep baseS)) (fun t => t.busReply = ⟨0, true, 0⟩) = true
    ∧ nextIs (exec (.intSample 32) (inStep baseS)) (fun t => t.busReply = ⟨0, false, 0⟩) = true
    ∧ nextIs (exec (.intSample 0) (inStep { scldS with mode := 0x40 })) (fun t => t.busReply = ⟨0, false, 0⟩) = true := by
  decide

/-- V6.20. -/
theorem test_int_ack : nextIs (exec (.intAck 0xFF 4) (inStep baseS)) (fun t => t.busReply.wait = 0 && t.lastBusTs = 4) = true := by
  decide

/-- V6.21: a device that issues a host command. -/
theorem test_reentrant :
    nextIs (exec (.ioRead 0x001F 4) (inStep { baseS with dev := chain, devIn := [.command 0x01000000, .ret 0x42 false] }))
    (fun t => t.fault = 0x20 && t.ctrl = .faulted && t.busReply = ⟨0, false, 0⟩) = true := by decide

/-- V6.22, V9.4. -/
theorem test_faulted :
    nextIs (exec (.reset true) { baseS with ctrl := .faulted, fault := 1 }) (fun t => t.result = .faulted && t.fault = 1) = true
    ∧ nextIs (exec (.rdreg 0x0A 0) { baseS with ctrl := .faulted, fault := 1 })
      (fun t => t.result = .ok && t.value = 1 && t.ctrl = .faulted) = true
    ∧ nextIs (step { baseS with ctrl := .faulted, fault := 1, hostIn := [⟨0, .none⟩] })
      (fun t => t.result = .faulted && !t.refused) = true := by decide

/-- V9.5: the log overflows at SHADOW, after BORDER was appended; the registers stay. -/
theorem test_log_overflow :
    nextIs (exec (.ioWrite 0x0F 0x7FFC 20) (inStep { State.powerOn (Config.paged 1 4) with
      tsc := 16, lastLogTs := 10, logs := ⟨⟨0, 0, []⟩, ⟨0, 0, []⟩, ⟨1, 0, [⟨10, 0⟩]⟩, ⟨0, 0, []⟩⟩ }))
    (fun t => t.fault = 0x04 && t.border = 7 && t.paging = 0x0F && t.logs.border.entries = [⟨20, 7⟩] && t.tsc = 16
      && t.busReply = ⟨0, false, 0⟩) = true := by decide

/-- V4.24 to V4.31. -/
theorem test_io_wait :
    [(0x40FE, 14335), (0x40FF, 14335), (0x40FF, 14341), (0x00FE, 14334), (0x00FE, 14335), (0x00FF, 14335), (0x40FF, 100)].map
      (fun p => ioWait p.1 p.2 baseS) = [6, 12, 6, 6, 5, 0, 0].map some
    ∧ ioWait 0x40FE 14361 pagedS = some 6 ∧ ioWait 0x40FF 14361 pagedS = some 12 := by decide

/-- R12, R118: a wait that WAIT does not hold is a fault, and the port is not reached. -/
theorem test_io_wait_fault :
    nextIs (exec (.ioWrite 7 0x40FE 14335) (inStep (State.powerOn
        { Config.base 3 8 4 with contLines := 2 ^ 34, contPattern := List.replicate 8 0xFFFFFFFF })))
      (fun t => t.fault = 1 && t.border = 0 && t.busReply = ⟨0, false, 0⟩) = true := by decide

/-- R12, R118, R263: a memory wait that WAIT does not hold is a fault, after the byte was written. -/
theorem test_mem_wait_fault :
    nextIs (exec (.memWrite 7 0x4000 0) (inStep wideWait))
      (fun t => t.fault = 1 && t.ram = [(0, 7)] && t.busReply = ⟨0, false, 0⟩) = true
    ∧ nextIs (exec (.contend 0x4000 0) (inStep wideWait)) (fun t => t.fault = 1 && t.ctrl = .faulted) = true := by decide

/-- R76, R121: TSC 70000 as RDREG's bytes. -/
theorem test_value_bytes :
    nextIs (exec (.rdreg 0 0) { pagedS with tsc := 70000 })
      (fun t => valueBytes t = [0x70, 0x11, 0x01, 0, 0, 0, 0, 0]) = true := by decide

/-- R248 (log entry 31): a MODE write with POOL_SEL unchanged sends a FIXED slot home. -/
theorem test_mode_write_fixed :
    nextIs (exec (.wrreg 0x13 1) { scldS with slots := scldS.slots.set 7 ⟨.ram, .fixed, 3, false⟩ })
      (fun t => t.slots = scldS.slots && t.mode = 1) = true := by decide

/-- V4.19, V4.20. -/
theorem test_delay :
    [14334, 14335, 14336, 14340, 14341, 14342, 14343, 14462, 14463, 14559, 57119, 57343].map (delay (Config.base 3 8 4))
      = [0, 6, 5, 1, 0, 0, 6, 0, 0, 6, 6, 0]
    ∧ [14360, 14361, 14367, 14368, 14369, 14589, 58009, 58137].map (delay (Config.paged 8 4)) = [0, 6, 0, 0, 6, 6, 2, 0] := by
  decide

/-- V4.5 to V4.8. -/
theorem test_home_tables :
    baseS.slots.map slotWord = [0x0000, 0x8400, 0x0401, 0x0402] ∧ pagedS.slots.map slotWord = [0x0000, 0x8405, 0x0402, 0x0400]
    ∧ scldS.slots.map slotWord = [0x0000, 0x0001, 0x8400, 0x8401, 0x0402, 0x0403, 0x0404, 0x0405]
    ∧ ((State.powerOn (Config.base 1 8 4)).slots.drop 2).map slotWord = [0x0C00, 0x0C00] := by decide

/-! Witnesses: for each statement with hypotheses, states and operands that meet them all; one conjunct a clause, at the edges
of its range. -/

/-- The next state of an outcome that has one. -/
def nextOf (o : Host.Outcome State Fault Refusal) (s : State) : State :=
  match o with
  | .next t => t
  | .fault _ => s
  | .refused _ => s

theorem serving_of (s : State) (h : s.ctrl ≠ .faulted) (b : Bool) (hp : s.pend = .cpu (.step b)) : s.Serving :=
  ⟨h, .inl ⟨b, hp⟩⟩

theorem serving_inStep (s : State) : (inStep s).Serving := serving_of _ (by simp [inStep]) true rfl

/-- A BASE instance at power-on that the host has given a word. -/
def fedS (w : HostWord) : State := { baseS with hostIn := [⟨w, .none⟩] }

theorem test_wit_inv (w : HostWord) : Inv (fedS w) where
  cfg := (by decide : Cfg.valid (Config.base 3 8 4) = true)
  slots := by
    have h : SlotsInv baseS := by unfold SlotsInv; decide
    exact h
  logs := by
    intro id
    have h : SubLogInv baseS id := by cases id <;> (unfold SubLogInv; decide)
    exact h
  fault := .inl ⟨rfl, by show baseS.ctrl ≠ .faulted; decide⟩
  idle := by
    have h : IdleInv baseS := by unfold IdleInv; decide
    exact h
  clock := by
    refine ⟨?_, ?_, ?_⟩
    · show baseS.tsc.toNat < 2 * baseS.cfg.n
      decide
    · intro c h; cases h
    · intro k b h; cases h
  dev := by
    refine ⟨?_, ?_, ?_, ?_⟩
    · show baseS.dev.length ≤ baseS.cfg.devMax
      decide
    · intro d h; cases h
    · intro d h; cases h
    · intro k d e h; cases h
  variant := by
    have h : VariantInv baseS := by unfold VariantInv; decide
    exact h
  ram := ⟨rfl, fun p h => by cases h⟩
  pend := by
    refine ⟨?_, ?_, ?_⟩
    · intro c d w h; cases h
    · intro h; rcases h with h | h <;> cases h
    · intro k c h; cases h
  logClock := by
    have h : LogClockInv baseS := by unfold LogClockInv; decide
    exact h

theorem test_wit_stepKeepsInv : Inv (fedS 0x01000000) ∧ step (fedS 0x01000000) = .next (nextOf (step (fedS 0x01000000)) baseS) :=
  ⟨test_wit_inv _, rfl⟩

/-- FaultOneBit and StickyBits: a step after which REFUSED is set, and one in FAULTED with a bit of FAULT set. -/
theorem test_wit_faultInv :
    (FaultInv { fedS 0 with refused := true } ∧ ({ fedS 0 with refused := true } : State).refused = true ∧
      step { fedS 0 with refused := true } = .next (nextOf (step { fedS 0 with refused := true }) baseS)) ∧
    (FaultInv { fedS 0 with ctrl := .faulted, fault := 0x20 } ∧
      BitVec.getLsbD { fedS 0 with ctrl := .faulted, fault := 0x20 }.fault 5 = true ∧
      step { fedS 0 with ctrl := .faulted, fault := 0x20 } =
        .next (nextOf (step { fedS 0 with ctrl := .faulted, fault := 0x20 }) baseS)) ∧
    FaultInv baseS ∧ exec .nmi baseS = .next (nextOf (exec .nmi baseS) baseS) :=
  ⟨⟨.inl ⟨rfl, by decide⟩, rfl, rfl⟩, ⟨.inr ⟨rfl, .reentrant, rfl⟩, by decide, rfl⟩, .inl ⟨rfl, by decide⟩, rfl⟩

theorem test_wit_faultedTerminal :
    ({ baseS with ctrl := .faulted, fault := 1 } : State).ctrl = .faulted ∧ Instr.restore.channel = .host ∧
    (∀ r x, Instr.restore ≠ .rdreg r x) ∧ ({ baseS with ctrl := .faulted, fault := 1 } : State).busy = false :=
  ⟨rfl, rfl, fun _ _ => Instr.noConfusion, rfl⟩

theorem test_wit_decodeEncode : (Instr.attach 0xFF 0xFFFF).wellFormed = true := by decide

theorem test_wit_encodeDecode : decodeWord (.bus 0x7000000000000020) = .ok (.intSample 32) := by decide

/-- HostWords: words on both sides of the table's edges. -/
theorem test_wit_hostWords :
    HostWordSpelled 0x10FF0000 ∧ ¬ HostWordSpelled 0x11000000 ∧ ¬ HostWordSpelled 0x00000000 ∧ ¬ HostWordSpelled 0x03020000 ∧
    (fedS 0x11000000).pend = .idle ∧ (fedS 0x11000000).Ready ∧ (fedS 0x11000000).hostIn = ⟨0x11000000, .none⟩ :: [] := by
  refine ⟨?_, ?_, ?_, ?_, by decide, by decide, rfl⟩ <;> (unfold HostWordSpelled; decide)

theorem test_wit_busWords :
    BusWordSpelled 0x8000FFFF00000000 ∧ ¬ BusWordSpelled 0x9000000000000000 ∧ ¬ BusWordSpelled 0x0000000000000065 ∧
    ({ inStep baseS with cpuIn := [.bus 0x0000000000000065] } : State).Serving := by
  refine ⟨?_, ?_, ?_, serving_of _ (by decide) true rfl⟩ <;> (unfold BusWordSpelled; decide)

theorem test_wit_stepRuns :
    ((fedS 0x05000000).pend = .idle ∧ decodeHost 0x05000000 = .ok .nmi) ∧
    (({ inStep baseS with cpuIn := [.bus 0x7000000000000020] } : State).pend = .cpu (.step true) ∧
      decodeBus 0x7000000000000020 = .ok (.intSample 32)) ∧
    (baseS.pend = .idle ∧ baseS.hostIn = []) ∧ ((inStep baseS).pend = .cpu (.step true) ∧ (inStep baseS).cpuIn = []) ∧
    (({ baseS with pend := .io (.step true) .read 6 } : State).devIn = []) ∧
    (({ baseS with pend := .notify 0 .reset } : State).devIn = []) := by decide

/-- A BASE instance past its frame with two devices that will answer. -/
def overS (tsc : Stamp) : State :=
  { baseS with tsc := tsc, ctrl := .atFrameBoundary, dev := [⟨1, 0, ⟨10, [], []⟩⟩, ⟨2, 1, ⟨11, [], []⟩⟩],
               devIn := [.ret 0 false, .ret 7 true, .ret 9 true] }

/-- EnsureFrame and FrameFirst: TSC at 0, N - 1, N and 2N - 1. -/
theorem test_wit_ensureFrame :
    (baseS.Ready ∧ baseS.InFrame) ∧ (({ baseS with tsc := 69887 } : State).Ready ∧ ({ baseS with tsc := 69887 } : State).InFrame) ∧
    ((overS 69888).Ready ∧ (overS 69888).cfg.n ≤ (overS 69888).tsc.toNat ∧ (overS 69888).tsc.toNat < 2 * (overS 69888).cfg.n ∧
      [((0 : Byte), false), (7, true)].length = (overS 69888).dev.length ∧
      (overS 69888).devIn = deviceReturns [(0, false), (7, true)] ++ [.ret 9 true]) ∧
    ((overS 139775).Ready ∧ (overS 139775).cfg.n ≤ (overS 139775).tsc.toNat ∧
      (overS 139775).tsc.toNat < 2 * (overS 139775).cfg.n) ∧
    (let s : State := { scldS with tsc := 3999, ctrl := .atFrameBoundary }
     s.Ready ∧ s.cfg.n ≤ s.tsc.toNat ∧ s.tsc.toNat < 2 * s.cfg.n ∧ ([] : List (Byte × Bool)).length = s.dev.length ∧
       s.devIn = deviceReturns [] ++ [] ∧ s.cfg.variant = .scld) ∧
    (let s : State := { pagedS with tsc := 70911, ctrl := .atFrameBoundary }
     s.Ready ∧ s.cfg.n ≤ s.tsc.toNat ∧ s.tsc.toNat < 2 * s.cfg.n ∧ ([] : List (Byte × Bool)).length = s.dev.length ∧
       s.devIn = deviceReturns [] ++ [] ∧ s.cfg.variant = .paged) := by decide

theorem test_wit_ensureIdempotent :
    (overS 139775).tsc.toNat < 2 * (overS 139775).cfg.n ∧
    exec .ensureFrame (overS 139775) = .next (nextOf (exec .ensureFrame (overS 139775)) baseS) ∧
    (nextOf (exec .ensureFrame (overS 139775)) baseS).pend = .idle ∧
    (nextOf (exec .ensureFrame (overS 139775)) baseS).ctrl ≠ .faulted := ⟨by decide, rfl, by decide, by decide⟩

theorem test_wit_tscMonotonic :
    (Inv (fedS 0) ∧ (.nmi : Instr) ≠ .restore ∧ (∀ v, (.nmi : Instr) ≠ .swapVariant v) ∧
      exec .nmi (fedS 0) = .next (nextOf (exec .nmi (fedS 0)) baseS)) ∧
    (¬ (fedS 0x05000000).ReplacesClock ∧ step (fedS 0x05000000) = .next (nextOf (step (fedS 0x05000000)) baseS)) := by
  refine ⟨⟨test_wit_inv _, by decide, fun _ => Instr.noConfusion, rfl⟩, ?_, rfl⟩
  rintro (h | ⟨_, w, p, rest, h, hw⟩)
  · cases h
  · have hd : decodeHost 0x05000000 = .ok .nmi := by decide
    cases h
    rcases hw with hw | ⟨v, hw⟩ <;> (rw [hd] at hw; cases hw)

/-- StepCompletes: one cycle and N cycles, OK and BREAK. -/
theorem test_wit_stepCompletes :
    [((1 : BitVec 32), (0 : BitVec 2)), (69888, 1)].map (fun p =>
      let r : CpuReply := ⟨p.1, p.2, true, []⟩
      let s : State := { baseS with cpuIn := [.ret r] }
      decide (s.Ready ∧ s.InFrame ∧ s.cpuIn = .ret r :: [] ∧ r.outcome.toNat < 2 ∧ 1 ≤ r.cycles.toNat ∧
        r.cycles.toNat ≤ s.cfg.n)) = [true, true] := by decide

/-- StepReturnCommits: STEP's call, and RUN_FRAME's, whose step ends the frame or does not; all the cycles are waits. -/
theorem test_wit_stepReturnCommits :
    let s : State := { inStep baseS with lastBusTs := 4, waitsGiven := 4, cpuIn := [.ret (yes 4)] }
    let run : Stamp → State := fun t => { s with pend := .cpu (.step false), tsc := t, stepStart := t, lastBusTs := t + 4 }
    ([69883, 69884].map fun t => decide ((run t).pend = .cpu (.step false) ∧ (run t).ctrl ≠ .faulted ∧
      (run t).lastBusTs.toNat ≤ (run t).stepStart.toNat + (yes 4).cycles.toNat)) = [true, true] ∧
    ([69883, 69884].map fun t => decide ((run t).cfg.n ≤ ((run t).tsc + (yes 4).cycles).toNat)) = [false, true] ∧
    s.pend = .cpu (.step true) ∧ s.ctrl ≠ .faulted ∧ s.cpuIn = .ret (yes 4) :: [] ∧ (yes 4).outcome.toNat < 2 ∧
    s.lastBusTs.toNat ≤ s.stepStart.toNat + (yes 4).cycles.toNat ∧ 1 ≤ (yes 4).cycles.toNat ∧
    (yes 4).cycles.toNat ≤ s.cfg.n ∧ s.waitsGiven ≤ (yes 4).cycles.toNat := by decide

/-- StepReturnFaults: a reply for each of the five faults. -/
theorem test_wit_stepReturnFaults :
    let s : CpuReply → State := fun r => { inStep baseS with lastBusTs := 1, waitsGiven := 5, cpuIn := [.ret r] }
    (∀ r, (s r).pend = .cpu (.step true) ∧ (s r).ctrl ≠ .faulted ∧ (s r).cpuIn = .ret r :: []) ∧
    2 ≤ (⟨4, 3, true, []⟩ : CpuReply).outcome.toNat ∧
    (s (yes 0)).stepStart.toNat + (yes 0).cycles.toNat < (s (yes 0)).lastBusTs.toNat ∧
    (inStep baseS).lastBusTs.toNat ≤ (inStep baseS).stepStart.toNat + (yes 0).cycles.toNat ∧
    (s (yes 69889)).cfg.n < (yes 69889).cycles.toNat ∧ (yes 4).cycles.toNat < (s (yes 4)).waitsGiven :=
  ⟨fun _ => ⟨rfl, by simp [inStep], rfl⟩, by decide, by decide, by decide, by decide, by decide⟩

/-- RunFrameScript: two steps that end the frame, the first a BREAK. -/
theorem test_wit_runFrameScript :
    let rs : List CpuReply := [⟨7, 1, true, []⟩, yes 11]
    let s : State := { baseS with tsc := 69880, cpuIn := rs.map CpuEvent.ret ++ [.ret (yes 4)] }
    let start := fun k => s.tsc.toNat + ((rs.take k).map fun r => r.cycles.toNat).sum
    s.Ready ∧ s.InFrame ∧ s.cfg.n < 2 ^ 31 ∧ s.cpuIn = rs.map CpuEvent.ret ++ [.ret (yes 4)] ∧
    (∀ r ∈ rs, r.outcome.toNat < 2 ∧ 1 ≤ r.cycles.toNat ∧ r.cycles.toNat ≤ s.cfg.n) ∧
    (∀ k, k < rs.length → start k < s.cfg.n) ∧ s.cfg.n ≤ start rs.length := by decide

theorem test_wit_runFrameBoundary :
    let s : State := { fedS 0 with cpuIn := [.ret (yes 69888)] }
    Inv s ∧ s.busy = false ∧ exec .runFrame s = .next (nextOf (exec .runFrame s) baseS) ∧
    (nextOf (exec .runFrame s) baseS).pend = .idle ∧ (nextOf (exec .runFrame s) baseS).ctrl ≠ .faulted :=
  ⟨{ test_wit_inv 0 with }, rfl, rfl, by decide, by decide⟩

/-- ResetSoft, ResetHard and NmiCompletes. -/
theorem test_wit_callers :
    let s : State := { overS 100 with ctrl := .running, cpuIn := [.ret (yes 11)] }
    (s.Ready ∧ s.InFrame ∧ s.cfg.valid = true ∧ s.slots.length = s.cfg.slotCount ∧ s.cpuIn = .ret (yes 11) :: [] ∧
      [((0 : Byte), false), (7, true)].length = s.dev.length ∧
      s.devIn = deviceReturns [(0, false), (7, true)] ++ [.ret 9 true]) ∧
    (s.softCleared.resetTold false [] [.ret 9 true]).LogRoom s.tsc ∧
    (s.hardCleared.resetTold true [] [.ret 9 true]).LogRoom s.tsc ∧
    ((yes 11).outcome.toNat < 2 ∧ 1 ≤ (yes 11).cycles.toNat ∧ (yes 11).cycles.toNat ≤ s.cfg.n) ∧ (no 0).cycles = 0 :=
  ⟨by decide, by decide, by decide, by decide, rfl⟩

/-- NmiReturn: a reply for each clause. -/
theorem test_wit_nmiReturn :
    let s : CpuReply → State := fun r =>
      { inStep baseS with pend := .cpu (.nmi true), lastBusTs := 1, waitsGiven := 5, cpuIn := [.ret r] }
    (∀ r, (s r).pend = .cpu (.nmi true) ∧ (s r).ctrl ≠ .faulted ∧ (s r).cpuIn = .ret r :: []) ∧
    2 ≤ (⟨4, 2, true, []⟩ : CpuReply).outcome.toNat ∧ ((no 3).accepted = false ∧ (no 3).cycles.toNat ≠ 0) ∧
    ((no 0).accepted = false ∧ (no 0).cycles.toNat = 0 ∧ (s (no 0)).busUsed = false) ∧
    (s (yes 0)).stepStart.toNat + (yes 0).cycles.toNat < (s (yes 0)).lastBusTs.toNat ∧
    (inStep baseS).lastBusTs.toNat ≤ (inStep baseS).stepStart.toNat + (yes 0).cycles.toNat ∧
    (s (yes 69889)).cfg.n < (yes 69889).cycles.toNat ∧ (yes 69888).cycles.toNat ≤ (s (yes 69888)).cfg.n ∧
    (yes 4).cycles.toNat < (s (yes 4)).waitsGiven ∧ (s (yes 5)).waitsGiven ≤ (yes 5).cycles.toNat :=
  ⟨fun _ => ⟨rfl, by simp [inStep], rfl⟩, by decide, by decide, by decide, by decide, by decide, by decide, by decide,
    by decide, by decide⟩

theorem test_wit_reentrant :
    ((inStep baseS).ctrl ≠ .faulted ∧ (inStep baseS).busy = true ∧ (Instr.rdreg 0 0).channel = .host) ∧
    (let s : State := { inStep baseS with cpuIn := [.command 1] }
     s.ctrl ≠ .faulted ∧ s.pend = .cpu (.step true) ∧ s.cpuIn = .command 1 :: []) ∧
    (let s : State := { inStep baseS with pend := .io (.step true) .read 0, devIn := [.command 1] }
     s.ctrl ≠ .faulted ∧ s.pend = .io (.step true) .read 0 ∧ s.devIn = .command 1 :: []) ∧
    (let s : State := { inStep baseS with pend := .notify 0 .reset, devIn := [.command 1] }
     s.ctrl ≠ .faulted ∧ s.pend = .notify 0 .reset ∧ s.devIn = .command 1 :: []) := by decide

/-- MapBankWritesSlot and MapBankConfig: the last slot and bank in range, the first out of range. -/
theorem test_wit_mapBank :
    (pagedS.Ready ∧ pagedS.InFrame ∧ (3 : BitVec 8).toNat < pagedS.cfg.slotCount ∧ (1 : BitVec 8).toNat < pagedS.cfg.romBanks ∧
      (7 : BitVec 8).toNat < pagedS.cfg.ramBanks) ∧
    State.LogRoom { pagedS with slots := pagedS.slots.set 3 (fixedRom 1) } pagedS.tsc ∧
    State.LogRoom { pagedS with slots := pagedS.slots.set 3 (fixedRam .paged 7) } pagedS.tsc ∧
    pagedS.cfg.slotCount ≤ (4 : BitVec 8).toNat ∧ pagedS.cfg.romBanks ≤ (2 : BitVec 8).toNat ∧
    pagedS.cfg.ramBanks ≤ (8 : BitVec 8).toNat := by decide

/-- MapPagedMapsSlots and WrregScld: the last mask whose banks BANK holds, and the first it does not. -/
theorem test_wit_mapPaged :
    let s := { wideEx with hsr := 4 }
    (scldS.Ready ∧ scldS.InFrame ∧ scldS.cfg.valid = true ∧ scldS.cfg.variant = .scld ∧ scldS.ExBanksFit 0xFF true) ∧
    (scldS.pagedMapped true 0xFF).LogRoom scldS.tsc ∧ (scldS.modeWritten 0xFF).LogRoom scldS.tsc ∧
    (scldS.hsrWritten 0xFF).LogRoom scldS.tsc ∧
    (wideEx.Ready ∧ wideEx.InFrame ∧ wideEx.cfg.valid = true ∧ wideEx.cfg.variant = .scld ∧ wideEx.ExBanksFit 3 true ∧
      ¬ wideEx.ExBanksFit 4 true) ∧
    (wideEx.pagedMapped true 3).LogRoom wideEx.tsc ∧ s.Ready ∧ s.InFrame ∧ s.ExBanksFit s.hsr ((0x7F : BitVec 8).getLsbD 7) ∧
    ¬ s.ExBanksFit s.hsr ((0x80 : BitVec 8).getLsbD 7) ∧
    ¬ ({ wideEx with mode := 0x80 } : State).ExBanksFit 4 ((0x80 : BitVec 8).getLsbD 7) :=
  ⟨by decide, by decide, by decide, by decide, by decide, by decide, by decide⟩

theorem test_wit_mapPagedTwice :
    scldS.tsc.toNat < 2 * scldS.cfg.n ∧
    exec (.mapPaged true 0x0F) scldS = .next (nextOf (exec (.mapPaged true 0x0F) scldS) baseS) ∧
    (nextOf (exec (.mapPaged true 0x0F) scldS) baseS).ctrl ≠ .faulted ∧
    (nextOf (exec (.mapPaged true 0x0F) scldS) baseS).busy = false := ⟨by decide, rfl, by decide, by decide⟩

/-- ContentionDelay: the first and the last line and position, and the two sides outside. -/
theorem test_wit_delay :
    let c := Config.base 3 8 4
    (0 < c.contLines ∧ 0 < c.l) ∧ (191 < c.contLines ∧ 223 < c.l) ∧ 14334 < c.contStart ∧ c.contStart + c.contLines * c.l ≤ 57343 := by
  decide

theorem test_wit_ioWait :
    let wide : Cfg := { Config.base 3 8 4 with contLines := 2 ^ 34, contPattern := List.replicate 8 0xFFFFFFFF }
    ioDelay baseS 0x40FE 14335 = 6 ∧
    (wide.valid = true ∧ (inStep (State.powerOn wide)).Serving ∧ (inStep (State.powerOn wide)).StampOk 14335 ∧
      2 ^ 32 ≤ ioDelay (inStep (State.powerOn wide)) 0x40FE 14335) :=
  ⟨by decide, by decide, serving_inStep _, by decide, by decide⟩

/-- RdregReadsMap: the first and the last number, one absent from the variant, one absent from the map, an index at its edge. -/
theorem test_wit_rdreg :
    baseS.busy = false ∧ ((0 : BitVec 8).toNat, some 0) ∈ registerMap baseS 0 ∧
    ((0x42 : BitVec 8).toNat, some 1) ∈ registerMap { baseS with dev := chain } 1 ∧
    ((0x12 : BitVec 8).toNat, none) ∈ registerMap baseS 0 ∧ ((0x20 : BitVec 8).toNat, some 0x402) ∈ registerMap baseS 3 ∧
    ((0x20 : BitVec 8).toNat, none) ∈ registerMap baseS 4 ∧
    (let wide := fun l => State.powerOn { scldCfg with l := l }
     ((3 : BitVec 8).toNat, some (2 ^ 32 - 1)) ∈ registerMap (wide (2 ^ 32 - 1)) 0 ∧ (wide (2 ^ 32)).cfg.valid = true ∧
       ((3 : BitVec 8).toNat, some (2 ^ 32)) ∈ registerMap (wide (2 ^ 32)) 0 ∧ registerWidth (3 : BitVec 8).toNat = 32) ∧
    (∀ n, ((0x19 : BitVec 8).toNat, n) ∉ registerMap baseS 0) := by
  refine ⟨rfl, by decide, by decide, by decide, by decide, by decide, by decide, fun n h => ?_⟩
  have h' : 0x19 ∈ (registerMap baseS 0).map Prod.fst := List.mem_map_of_mem (f := Prod.fst) h
  exact absurd h' (by decide)

/-- WrregBorder and WrregPaging: also with SHADOW full, to which a new border alone appends nothing. -/
theorem test_wit_wrreg :
    let s := { pagedS with logs := { pagedS.logs with shadow := ⟨0, 0, List.replicate 8 ⟨0, 0⟩⟩ } }
    (pagedS.Ready ∧ pagedS.InFrame ∧ pagedS.cfg.valid = true ∧ pagedS.cfg.variant = .paged) ∧
    (pagedS.latched 8).LogRoom pagedS.tsc ∧ s.Ready ∧ s.InFrame ∧ State.LogRoom { s with border := (5 : BitVec 8).setWidth 3 } s.tsc ∧
    ¬ (s.latched 8).LogRoom s.tsc := by decide

theorem test_wit_illegalNames :
    baseS.Ready ∧ baseS.cfg.variant ≠ .scld ∧
    ¬ ((0x12 : BitVec 8) = 0x10 ∨ ((0x12 : BitVec 8) = 0x12 ∧ baseS.cfg.variant = .paged) ∨
      (((0x12 : BitVec 8) = 0x13 ∨ (0x12 : BitVec 8) = 0x14) ∧ baseS.cfg.variant = .scld)) := by decide

/-- NoteAppends: MODE appended with BORDER full, changed and under HIRES. -/
theorem test_wit_noteAppends :
    let s := { scldS with mode := 6, border := 3, logs := { scldS.logs with border := ⟨0, 0, List.replicate 8 ⟨0, 0⟩⟩ } }
    s.ctrl ≠ .faulted ∧ s.LogRoom 7 ∧ recorded s .mode = true ∧ (note 7 s).logs.mode.entries = [⟨7, 6⟩] ∧
    (note 7 s).logs.border = s.logs.border ∧ ¬ State.LogRoom { s with mode := 0 } 7 := by decide

/-- A PAGED instance whose sub-logs hold one entry at most, BORDER and SHADOW full. -/
def pagedOne : State :=
  { State.powerOn (Config.paged 1 4) with
    tsc := 100, lastLogTs := 100, logs := { baseS.logs with border := ⟨0, 0, [⟨100, 0⟩]⟩, shadow := ⟨0, 0, [⟨100, 0⟩]⟩ } }

/-- An SCLD instance whose sub-logs hold one entry at most, each full, with slot 7 in the extension ROM and the border at 5. -/
def scldOne : State :=
  { State.powerOn { scldCfg with logCapacity := 1 } with
    tsc := 100, lastLogTs := 100, border := 5, hsr := 0x80, mode := 0x80, slots := scldS.slots.set 7 ⟨.rom, .ex, 9, false⟩
    logs := ⟨⟨0, 5, [⟨1, 5⟩]⟩, ⟨0, 0, [⟨2, 0⟩]⟩, ⟨0, 0, []⟩, ⟨0, 0x80, [⟨100, 0x80⟩]⟩⟩
    cpuIn := [.ret (yes 0)] }

/-- LogOverflow: each clause, with the first full sub-log BORDER, MODE, SHADOW or SOURCE. -/
theorem test_wit_logOverflow :
    (pagedOne.ctrl ≠ .faulted ∧ (pagedOne.latched 8).LogFull 100 .shadow) ∧
    ((inStep pagedOne).Serving ∧ (inStep pagedOne).StampOk 100 ∧ (inStep pagedOne).cfg.valid = true ∧
      chipsetPort (inStep pagedOne).cfg.variant 0x7FFC = true ∧ (inStep pagedOne).PortBanksFit 0x7FFC 8 ∧ ioDelay (inStep pagedOne) 0x7FFC 100 = 0 ∧
      ((inStep pagedOne).portWritten 0x7FFC 8).LogFull 100 .shadow) ∧
    ((pagedOne.Ready ∧ pagedOne.InFrame ∧ pagedOne.cfg.valid = true ∧ pagedOne.cfg.variant = .paged) ∧
      (pagedOne.latched 8).LogFull pagedOne.tsc .shadow ∧
      ({ pagedOne with border := 3 } : State).LogFull pagedOne.tsc .border) ∧
    ((scldOne.Ready ∧ scldOne.InFrame ∧ scldOne.cfg.valid = true ∧ scldOne.cfg.variant = .scld ∧
        (7 : BitVec 8).toNat < scldOne.cfg.slotCount ∧ (11 : BitVec 8).toNat < scldOne.cfg.romBanks ∧
        (5 : BitVec 8).toNat < scldOne.cfg.ramBanks ∧ scldOne.ExBanksFit scldOne.hsr ((1 : BitVec 8).getLsbD 7) ∧
        scldOne.ExBanksFit 0x81 (scldOne.mode.getLsbD 7) ∧ scldOne.ExBanksFit 0 true) ∧
      (scldOne.modeWritten 1).LogFull scldOne.tsc .mode ∧ (scldOne.hsrWritten 0x81).LogFull scldOne.tsc .source ∧
      (scldOne.pagedMapped true 0).LogFull scldOne.tsc .source ∧
      ({ scldOne with slots := scldOne.slots.set 7 (fixedRom 11) } : State).LogFull scldOne.tsc .source ∧
      ({ scldOne with slots := scldOne.slots.set 7 (fixedRam .scld 5) } : State).LogFull scldOne.tsc .source ∧
      scldOne.slots.length = scldOne.cfg.slotCount ∧ scldOne.cpuIn = .ret (yes 0) :: [] ∧ scldOne.dev.length = 0 ∧
      (scldOne.softCleared.resetTold false [] []).LogFull scldOne.tsc .border ∧
      (scldOne.hardCleared.resetTold true [] []).LogFull scldOne.tsc .border) :=
  ⟨by decide, ⟨serving_inStep _, by decide⟩, by decide, by decide, by decide⟩

/-- AttachInserts: at the end, and under index 0, whose sub-chain ends at 2. -/
theorem test_wit_attach :
    let s : State := { baseS with dev := chain, payload := .agent ⟨9, [], []⟩ }
    let d : Device := ⟨1, 0, ⟨1, [⟨0x1F, 0x1F⟩], []⟩⟩
    (s.Ready ∧ (9 : BitVec 16) ≠ 0 ∧ s.payload = .agent ⟨9, [], []⟩ ∧ s.dev.length < s.cfg.devMax ∧ (0 : BitVec 8) ≠ 0xFF ∧
      s.dev[(0 : BitVec 8).toNat]? = some d ∧ (0 : BitVec 8).toNat < 2 ∧ 2 ≤ s.dev.length) ∧
    (∀ j x, (0 : BitVec 8).toNat < j → j < 2 → s.dev[j]? = some x → d.depth.toNat < x.depth.toNat) ∧
    ∀ x, s.dev[2]? = some x → x.depth.toNat ≤ d.depth.toNat := by
  refine ⟨by decide, fun j x h1 h2 hx => ?_, fun x hx => ?_⟩
  · have hj : j = 1 := by simp at h1; omega
    subst hj
    cases hx
    decide
  · cases hx
    decide

theorem test_wit_attachConfig :
    let s : State := { baseS with dev := chain ++ [⟨4, 0, ⟨4, [], []⟩⟩] }
    (s.Ready ∧ (5 : BitVec 16) ≠ 0 ∧ s.dev.length = s.cfg.devMax) ∧
    (({ baseS with dev := chain } : State).Ready ∧ (3 : BitVec 8) ≠ 0xFF ∧
      ({ baseS with dev := chain } : State).dev.length ≤ (3 : BitVec 8).toNat) := by decide

/-- DetachRemovesSubchain and FindFirstOfTag: a tag that is there with its sub-chain, and one that is not. -/
theorem test_wit_detach :
    let s : State := { baseS with dev := chain }
    let d : Device := ⟨1, 0, ⟨1, [⟨0x1F, 0x1F⟩], []⟩⟩
    (s.Ready ∧ (∀ x ∈ s.dev, x.tag ≠ 4) ∧ s.dev[0]? = some d ∧ d.tag = 1 ∧ 0 < 2 ∧ 2 ≤ s.dev.length) ∧
    (∀ j x, j < 0 → s.dev[j]? = some x → x.tag ≠ 1) ∧
    (∀ j x, 0 < j → j < 2 → s.dev[j]? = some x → d.depth.toNat < x.depth.toNat) ∧
    ∀ x, s.dev[2]? = some x → x.depth.toNat ≤ d.depth.toNat := by
  refine ⟨by decide, fun j x h => absurd h (by omega), fun j x h1 h2 hx => ?_, fun x hx => ?_⟩
  · have hj : j = 1 := by omega
    subst hj
    cases hx
    decide
  · cases hx
    decide

/-- FindFirstOfTag: the second device, after one of another tag. -/
theorem test_wit_find :
    let s : State := { baseS with dev := chain }
    let d : Device := ⟨2, 1, ⟨2, [⟨0x1F, 0x1F⟩], []⟩⟩
    s.Ready ∧ s.dev[1]? = some d ∧ d.tag = 2 ∧ ∀ j x, j < 1 → s.dev[j]? = some x → x.tag ≠ 2 := by
  refine ⟨by decide, rfl, rfl, fun j x h hx => ?_⟩
  have hj : j = 0 := by omega
  subst hj
  cases hx
  decide

theorem test_wit_save :
    let s : State := { baseS with cpuIn := [.ret (yes 0)] }
    s.Ready ∧ s.cfg.valid = true ∧ s.cpuIn = .ret (yes 0) :: [] ∧ (yes 0).blob.length < 2 ^ 32 := by decide

/-- SaveBlobLayout's other clause: a CPU that saves 2^32 bytes. -/
theorem test_wit_save_long :
    let r : CpuReply := ⟨0, 0, true, List.replicate (2 ^ 32) 0⟩
    let s : State := { baseS with cpuIn := [.ret r] }
    s.Ready ∧ s.cfg.valid = true ∧ s.cpuIn = .ret r :: [] ∧ 2 ^ 32 ≤ r.blob.length :=
  ⟨⟨rfl, by show baseS.ctrl ≠ .faulted; decide⟩, rfl, rfl, Nat.le_of_eq List.length_replicate.symm⟩

theorem numberAt_head {h t : List Byte} {i n : Nat} (hn : i + n ≤ h.length) : numberAt (h ++ t) i n = numberAt h i n := by
  unfold numberAt
  rw [List.drop_append_of_le_length (by omega), List.take_append_of_le_length (by simp; omega)]

theorem numberAt_tail {h t : List Byte} {i k n : Nat} (hk : i = h.length + k) : numberAt (h ++ t) i n = numberAt t k n := by
  unfold numberAt
  rw [hk, List.drop_append, List.drop_eq_nil_of_le (by omega), List.nil_append]
  congr 2
  congr 1
  omega

/-- The head of a blob of BASE with one RAM bank, up to its RAM contents (R136). -/
def blobHead : List Byte :=
  [1, 0, 4, 0, 5, 0, 0, 0, 9, 0, 0, 0, 0, 0, 0, 0, 3, 0, 0, 0, 0, 0, 0, 0, 0, 0, 0, 0x84, 0, 0x0C, 0, 0x0C, 0, 0x40, 0, 0]

/-- The whole blob: 16384 bytes of RAM, no DOCK, a CPU part of one byte. -/
def blob16 : List Byte := blobHead ++ (List.replicate 16384 0x55 ++ [0, 0, 0, 0, 1, 0, 0, 0, 0xAB])

theorem test_wit_blobFits : BlobFits (Config.base 1 8 4) blob16 := by
  have hl : blob16.length = 16429 := by
    unfold blob16
    rw [List.length_append, List.length_append, List.length_replicate]
    rfl
  have hh : ∀ i n, i + n ≤ 36 → numberAt blob16 i n = numberAt blobHead i n := fun i n h => numberAt_head h
  have ht : ∀ k n, numberAt blob16 (36 + (16384 + k)) n = numberAt [0, 0, 0, 0, 1, 0, 0, 0, 0xAB] k n := fun k n => by
    exact (numberAt_tail (h := blobHead) (k := 16384 + k) rfl).trans
      (numberAt_tail (k := k) (by rw [List.length_replicate]))
  have hc : numberAt blob16 16424 4 = 1 := (ht 4 4).trans (by decide)
  have hd : numberAt blob16 16420 4 = 0 := (ht 0 4).trans (by decide)
  have hslots : ∀ i, i < 4 → SavedEntryOk (Config.base 1 8 4) (numberAt blob16 (24 + 2 * i) 2) := by
    intro i hi
    rw [hh _ _ (by omega)]
    unfold SavedEntryOk
    interval_cases i <;> decide
  refine ⟨?_, ?_, ?_, ?_, ?_, ?_, ?_, ?_, ?_, ?_, ?_, ?_, hslots, ?_, hd, ?_⟩
  · rw [hl]; decide
  · rw [hh _ _ (by omega)]; decide
  · rw [hh _ _ (by omega)]; decide
  · rw [hh _ _ (by omega)]; decide
  · rw [hh _ _ (by omega)]; decide
  · rw [hh _ _ (by omega)]; decide
  · rw [hh _ _ (by omega)]; decide
  · rw [hh _ _ (by omega)]; decide
  · rw [hh _ _ (by omega)]; decide
  · rw [hh _ _ (by omega)]; decide
  · intro _; rw [hh _ _ (by omega)]; decide
  · intro _; rw [hh _ _ (by omega), hh _ _ (by omega)]; decide
  · exact (hh 32 4 (by omega)).trans (by decide)
  · rw [hl, show 32 + 2 * (Config.base 1 8 4).slotCount + (Config.base 1 8 4).ramBanks * (Config.base 1 8 4).slotSize = 16424
      from rfl, hc]
    rfl

/-- A BASE instance with one RAM bank and that blob beside it. -/
def restoreS (r1 r2 : CpuReply) : State :=
  { State.powerOn (Config.base 1 8 4) with payload := .blob blob16, cpuIn := [.ret r1, .ret r2] }

theorem test_wit_restore :
    (restoreS (yes 0) (yes 0)).Ready ∧ (restoreS (yes 0) (yes 0)).payload = .blob blob16 ∧
    BlobFits (restoreS (yes 0) (yes 0)).cfg blob16 ∧
    (restoreS (yes 0) (yes 0)).cpuIn = .ret (yes 0) :: .ret (yes 0) :: [] ∧ (yes 0).accepted = true :=
  ⟨⟨rfl, by simp [restoreS, State.powerOn]; decide⟩, rfl, test_wit_blobFits, rfl, rfl⟩

theorem test_wit_restoreMismatch :
    (¬ BlobFits baseS.cfg [] ∧ ({ baseS with payload := .blob [] } : State).Ready) ∧
    BlobFits (restoreS (no 0) (no 0)).cfg blob16 ∧ (restoreS (no 0) (no 0)).cpuIn = .ret (no 0) :: .ret (no 0) :: [] ∧
    (no 0).accepted = false := ⟨⟨fun h => absurd h.1 (by decide), by decide⟩, test_wit_blobFits, rfl, rfl⟩

/-- SaveRestore: SAVE and RESTORE on the same record. -/
theorem test_wit_saveRestore :
    let s : State := { fedS 0 with cpuIn := [.ret (yes 0)] }
    let t := nextOf (exec .save s) baseS
    let u := { baseS with tsc := 77, payload := .blob t.blob, cpuIn := [.ret (yes 0), .ret (yes 0)] }
    Inv s ∧ s.Ready ∧ s.cpuIn = .ret (yes 0) :: [] ∧ (yes 0).blob.length < 2 ^ 32 ∧ exec .save s = .next t ∧
    u.Ready ∧ u.cfg = s.cfg ∧ u.payload = .blob t.blob ∧ u.cpuIn = .ret (yes 0) :: .ret (yes 0) :: [] ∧
    (yes 0).accepted = true :=
  ⟨{ test_wit_inv 0 with }, by decide, rfl, by decide, rfl, ⟨rfl, by simp [baseS, State.powerOn]; decide⟩, rfl, rfl, rfl, rfl⟩

/-- SwapState and SwapRam: the tag of the record's variant, and a tag that is no variant. -/
theorem test_wit_swap :
    let s : State := { baseS with payload := .cfg (Config.paged 8 4) }
    (s.Ready ∧ s.cfg.valid = true ∧ s.payload = .cfg (Config.paged 8 4) ∧ (Config.paged 8 4).valid = true ∧
      (1 : BitVec 8) = (match (Config.paged 8 4).variant with | .base => 0 | .paged => 1 | .scld => 2)) ∧
    (3 : BitVec 8) ≠ (match (Config.paged 8 4).variant with | .base => 0 | .paged => 1 | .scld => 2) ∧
    ({ baseS with payload := .cfg (Config.paged 4097 4) } : State).Ready ∧ (Config.paged 4097 4).valid = false := by decide

theorem test_wit_swapRam :
    let s : State := { baseS with payload := .cfg (Config.paged 8 4) }
    exec (.swapVariant 1) s = .next (nextOf (exec (.swapVariant 1) s) baseS) ∧
    (slotEntry s.slots (0x8000 / s.cfg.slotSize)).kind = .ram ∧
    (slotEntry (nextOf (exec (.swapVariant 1) s) baseS).slots (0x8000 / 16384)).kind = .ram := ⟨rfl, by decide, by decide⟩

/-- MemReadAndFetch and MemWriteOneByte: a slot of each kind, and an absent DOCK. -/
theorem test_wit_memRead :
    let dock : List Slot := scldS.slots.set 0 ⟨.dock, .dock, 0, false⟩
    ((inStep scldS).Serving ∧ (inStep scldS).StampOk 0 ∧ (inStep scldS).StampOk 3999 ∧
      (slotEntry (inStep scldS).slots ((0x0000 : Addr).toNat / 8192)).kind = .rom ∧
      (slotEntry (inStep scldS).slots ((0xFFFF : Addr).toNat / 8192)).kind = .ram) ∧
    (let s := inStep { scldS with slots := dock }
     s.Serving ∧ s.StampOk 0 ∧ (slotEntry s.slots ((0x1FFF : Addr).toNat / s.cfg.slotSize)).kind = .dock ∧
       s.cfg.dockPresent = true) ∧
    (let s := inStep { scldS with slots := dock, cfg := { scldCfg with dockPresent := false } }
     s.Serving ∧ s.StampOk 0 ∧ (slotEntry s.slots ((0x1FFF : Addr).toNat / s.cfg.slotSize)).kind = .dock ∧
       s.cfg.dockPresent = false) ∧
    (let s := inStep (State.powerOn (Config.base 1 8 4))
     s.Serving ∧ s.StampOk 0 ∧ (slotEntry s.slots ((0x8000 : Addr).toNat / s.cfg.slotSize)).kind = .unpopulated) :=
  ⟨⟨serving_inStep _, by decide⟩, ⟨serving_inStep _, by decide⟩, ⟨serving_inStep _, by decide⟩, serving_inStep _, by decide⟩

/-- WriteThenFetch: bank 5 in slots 1 and 3 of PAGED (R80). -/
theorem test_wit_writeThenFetch :
    let s := inStep { pagedS with slots := pagedS.slots.set 3 ⟨.ram, .home, 5, true⟩ }
    let t := nextOf (exec (.memWrite 0x55 0x4000 47) s) baseS
    s.Serving ∧ s.StampOk 47 ∧ (slotEntry s.slots ((0x4000 : Addr).toNat / s.cfg.slotSize)).kind = .ram ∧
    (slotEntry s.slots ((0xC000 : Addr).toNat / s.cfg.slotSize)).kind = .ram ∧
    (slotEntry s.slots ((0xC000 : Addr).toNat / s.cfg.slotSize)).bank
      = (slotEntry s.slots ((0x4000 : Addr).toNat / s.cfg.slotSize)).bank ∧
    (0xC000 : Addr).toNat % s.cfg.slotSize = (0x4000 : Addr).toNat % s.cfg.slotSize ∧
    memDelay s 0x4000 47 < 2 ^ 32 ∧ memDelay s 0xC000 53 < 2 ^ 32 ∧
    exec (.memWrite 0x55 0x4000 47) s = .next t ∧ t.StampOk 53 ∧
    exec (.fetch 0xC000 53) t = .next (nextOf (exec (.fetch 0xC000 53) t) baseS) :=
  ⟨serving_inStep _, by decide, by decide, by decide, by decide, by decide, by decide, by decide, rfl, by decide, rfl⟩

/-- QuietCycles, and the two sides of a memory wait. -/
theorem test_wit_quietCycles :
    ((inStep baseS).Serving ∧ (inStep baseS).StampOk 139775) ∧ memDelay baseS 0x4000 14335 = 6 ∧
    wideWait.cfg.valid = true ∧ memDelay wideWait 0x4000 0 = 2 ^ 32 := ⟨⟨serving_inStep _, by decide⟩, by decide⟩

/-- IoReadAnswers: the ULA, MODE, HSR, a port nobody claims, and one the second device claims. -/
theorem test_wit_ioRead :
    let s := inStep { baseS with dev := chain.reverse, devIn := [.ret 0x42 false] }
    (s.Serving ∧ s.StampOk 4 ∧ ulaPort s.cfg.variant 0xFEFE = true ∧ ioDelay s 0xFEFE 4 = 0) ∧
    ((inStep scldS).Serving ∧ (inStep scldS).StampOk 4 ∧
      (scldPort (inStep scldS).cfg.variant 0xFF 0x00FF && (inStep scldS).cfg.scldPortReadback) = true ∧
      (scldPort (inStep scldS).cfg.variant 0xF4 0x00F4 && (inStep scldS).cfg.scldPortReadback) = true) ∧
    (ulaPort s.cfg.variant 0x1F = false ∧ (scldPort s.cfg.variant 0xFF 0x1F && s.cfg.scldPortReadback) = false ∧
      (scldPort s.cfg.variant 0xF4 0x1F && s.cfg.scldPortReadback) = false ∧ ioDelay s 0x1F 4 = 0 ∧
      ioDelay s 0x21 4 = 0) ∧
    NoClaim s 0x21 .read ∧ FirstClaim s 0x1F .read 1 ⟨2, 1, ⟨2, [⟨0x1F, 0x1F⟩], []⟩⟩ ∧ s.devIn = .ret 0x42 false :: [] := by
  refine ⟨⟨serving_inStep _, by decide⟩, ⟨serving_inStep _, by decide, by decide, by decide⟩, by decide,
    by unfold NoClaim; decide,
    ⟨rfl, by decide, fun j y h hy => ?_⟩, rfl⟩
  have hj : j = 0 := by omega
  subst hj
  cases hy
  decide

/-- IoWriteChipset: a write that goes on, and one of HSR that asks for a bank BANK does not hold. -/
theorem test_wit_ioWriteChipset :
    let s := inStep { wideEx with mode := 0x80 }
    ((inStep pagedS).Serving ∧ (inStep pagedS).StampOk 200 ∧ (inStep pagedS).cfg.valid = true ∧
      ((inStep pagedS).portWritten 0x7FFC 7).LogRoom 200 ∧ chipsetPort (inStep pagedS).cfg.variant 0x7FFC = true ∧
      (inStep pagedS).PortBanksFit 0x7FFC 7 ∧ ioDelay (inStep pagedS) 0x7FFC 200 = 0) ∧
    s.Serving ∧ s.StampOk 200 ∧ (s.cfg.valid = true ∧ chipsetPort s.cfg.variant 0xF4 = true ∧ s.PortBanksFit 0xF4 3 ∧
      ¬ s.PortBanksFit 0xF4 4) :=
  ⟨⟨serving_inStep _, by decide, by decide, by decide, by decide, by decide, by decide⟩, serving_inStep _,
    by decide, by decide, by decide, by decide, by decide⟩

theorem test_wit_ioWriteDevice :
    let s := inStep { baseS with dev := [⟨1, 0, ⟨1, [], [⟨0x1F, 0x1F⟩]⟩⟩], devIn := [.ret 0 false] }
    s.Serving ∧ s.StampOk 4 ∧ (chipsetPort s.cfg.variant 0x1F = false ∧ ioDelay s 0x1F 4 = 0) ∧
    (chipsetPort s.cfg.variant 0x21 = false ∧ ioDelay s 0x21 4 = 0) ∧
    NoClaim s 0x21 .write ∧ FirstClaim s 0x1F .write 0 ⟨1, 0, ⟨1, [], [⟨0x1F, 0x1F⟩]⟩⟩ ∧ s.devIn = .ret 0 false :: [] :=
  ⟨serving_inStep _, by decide, by decide, by decide, by unfold NoClaim; decide,
    ⟨rfl, by decide, fun j y h => absurd h (by omega)⟩, rfl⟩

/-- TsOrder: one before the last, and 2N. -/
theorem test_wit_tsOrder :
    let s := inStep { baseS with tsc := 100 }
    s.Serving ∧ busStamp (.memRead 0x4000 99) = some 99 ∧ (99 : Stamp).toNat < s.lastBusTs.toNat ∧
    2 * s.cfg.n ≤ (139776 : Stamp).toNat ∧
    State.ctrl { s with pend := .cpu (.reset true) } ≠ .faulted := ⟨serving_inStep _, rfl, by decide, by decide, by decide⟩

/-- R200: a bus word in CPU.reset is CPU_FAULT; R197: a step of RUN_FRAME before the frame's end begins the next. -/
theorem test_reset_bus_word_and_next_step :
    nextIs (step { inStep baseS with pend := .cpu (.reset true), cpuIn := [.bus 0x2000400000000000] })
      (fun t => t.fault = 0x08 && t.busReply = ⟨0, false, 0⟩) = true ∧
    nextIs (step { inStep baseS with pend := .cpu (.step false), lastBusTs := 3, cpuIn := [.ret (yes 4)] })
      (fun t => t.tsc = 4 && t.stepStart = 4 && t.lastBusTs = 4 && t.pend = .cpu (.step false) && t.calls = [.cpuStep 4 false])
      = true := by decide

theorem test_wit_busFrame :
    (Instr.memWrite 1 0x4000 0).channel = .bus ∧
    exec (.memWrite 1 0x4000 0) (inStep baseS) = .next (nextOf (exec (.memWrite 1 0x4000 0) (inStep baseS)) baseS) := ⟨rfl, rfl⟩

theorem test_wit_powerOnInv : (Config.base 1 1 1).valid = true ∧ scldCfg.valid = true ∧ (Config.paged 4096 255).valid = true ∧
    (Config.paged 4097 255).valid = false := by decide

/-- The OPEN table's bounds of INT_LENGTH, and R10's of EX_POOL_BASE. -/
theorem test_valid_bounds :
    [0, 1, 2000, 2001].map (fun k => Cfg.valid { scldCfg with intLength := k }) = [false, true, true, false] ∧
    [280, 281].map (fun k => Cfg.valid { scldCfg with romBanks := 300, reservedRomBanks := 280, exPoolBase := k })
      = [true, false] := by decide

/-- R247 and R12: the extension bank of slot 1 is 255 and is mapped; that of slot 2 is 256, a fault that changes no slot, and
no CONFIG (R350). -/
theorem test_ex_bank_width :
    nextIs (exec (.mapPaged true 3) wideEx) (fun t => decide (slotEntry t.slots 1 = ⟨.rom, .ex, 255, false⟩) &&
      decide (t.ctrl = .running)) = true ∧
    nextIs (exec (.mapPaged true 7) wideEx) (fun t => decide (t.ctrl = .faulted) && decide (t.slots = wideEx.slots) &&
      decide (t.hsr = 7)) = true ∧ bankFaultBit ≠ .config := ⟨by decide, by decide, bankFaultBit_ne_config⟩

/-- R12: an L that LINE_CYCLES does not hold is a fault, and in FAULTED the reply FAULTED; one it holds is replied. -/
theorem test_lineCycles_width :
    let wide := fun l => exec (.rdreg 3 0) (State.powerOn { scldCfg with l := l })
    nextIs (wide (2 ^ 32 - 1)) (fun t => decide (t.value = 0xFFFFFFFF) && decide (t.fault = 0)) = true ∧
    nextIs (wide (2 ^ 32)) (fun t => decide (t.result = .faulted) && decide (t.fault = 1) && decide (t.ctrl = .faulted))
      = true ∧
    nextIs (exec (.rdreg 3 0) { State.powerOn { scldCfg with l := 2 ^ 32 } with ctrl := .faulted, fault := 8 })
      (fun t => decide (t.result = .faulted) && decide (t.fault = 8) && decide (t.value = 0)) = true := by decide

end Sys2Proof.Tests
end

namespace Sys2Proof.Machine

/-! One step, by the agent whose turn it is (R17, R110). -/

/-- A decoded host word is run with the word taken and its payload kept beside it. -/
theorem step_host_word {s : State} {w : HostWord} {p : Payload} {rest : List HostInput} {i : Instr} (hp : s.pend = .idle)
    (hq : s.hostIn = ⟨w, p⟩ :: rest) (hd : decodeHost w = .ok i) :
    step s = exec i { s with hostIn := rest, payload := p } := by
  simp [step, fetchNext, fetchHost, hp, hq, hd]

/-- A decoded bus word inside a CPU call is run with the word taken. -/
theorem step_bus_word {s : State} {c : CpuCall} {w : BusWord} {rest : List CpuEvent} {i : Instr} (hp : s.pend = .cpu c)
    (hq : s.cpuIn = .bus w :: rest) (hd : decodeBus w = .ok i) : step s = exec i { s with cpuIn := rest } := by
  simp [step, fetchNext, fetchCpu, hp, hq, hd]

theorem step_host_waits {s : State} (hp : s.pend = .idle) (hq : s.hostIn = []) : step s = .next s := by
  simp [step, fetchNext, fetchHost, hp, hq]

theorem step_cpu_waits {s : State} {c : CpuCall} (hp : s.pend = .cpu c) (hq : s.cpuIn = []) : step s = .next s := by
  simp [step, fetchNext, fetchCpu, hp, hq]

theorem step_io_waits {s : State} {c : CpuCall} {d : Dir} {w : BitVec 32} (hp : s.pend = .io c d w) (hq : s.devIn = []) :
    step s = .next s := by
  simp [step, fetchNext, micro, hp, hq]

theorem step_notify_waits {s : State} {k : Nat} {n : Notice} (hp : s.pend = .notify k n) (hq : s.devIn = []) :
    step s = .next s := by
  simp [step, fetchNext, micro, hp, hq]

/-- Settles O13: each clause is the step of one agent. -/
theorem stepRuns : Obligations.StepRuns := fun _ =>
  ⟨fun _ _ _ _ => step_host_word, fun _ _ _ _ => step_bus_word, step_host_waits, fun _ => step_cpu_waits,
    fun _ _ _ => step_io_waits, fun _ _ => step_notify_waits⟩

end Sys2Proof.Machine

namespace Sys2Proof.Machine

/-! What a valid record gives, by variant (R10), and the home layouts under one (R242 to R245). -/

/-- The conditions of R10 (with log entries 22 and 23) that the proofs use, under names. -/
theorem valid_parts {c : Cfg} (h : c.valid = true) :
    0 < c.n ∧ c.slotsFixed = true ∧ c.poolsValid = true := by
  simp only [Cfg.valid, Bool.and_eq_true, decide_eq_true_eq] at h
  obtain ⟨⟨⟨⟨⟨⟨⟨⟨⟨⟨⟨-, hn⟩, -⟩, -⟩, hslots⟩, hpools⟩, -⟩, -⟩, -⟩, -⟩, -⟩, -⟩ := h
  exact ⟨hn, hslots, hpools⟩

/-- BASE has four slots, one ROM bank and at most three RAM banks. -/
theorem valid_base {c : Cfg} (h : c.valid = true) (hb : c.variant = .base) :
    c.slotCount = 4 ∧ c.romBanks = 1 ∧ c.ramBanks ≤ 3 := by
  obtain ⟨-, hs, hp⟩ := valid_parts h
  simp only [Cfg.slotsFixed, Cfg.poolsValid, hb, Bool.and_eq_true, Bool.or_eq_true, decide_eq_true_eq] at hs hp
  omega

/-- PAGED has four slots, two ROM banks and eight RAM banks. -/
theorem valid_paged {c : Cfg} (h : c.valid = true) (hp : c.variant = .paged) :
    c.slotCount = 4 ∧ c.romBanks = 2 ∧ c.ramBanks = 8 := by
  obtain ⟨-, hs, hq⟩ := valid_parts h
  simp only [Cfg.slotsFixed, Cfg.poolsValid, hp, Bool.and_eq_true, decide_eq_true_eq] at hs hq
  omega

/-- SCLD has eight slots, at least two ROM banks, six RAM banks and eight DOCK banks. -/
theorem valid_scld {c : Cfg} (h : c.valid = true) (hs : c.variant = .scld) :
    c.slotCount = 8 ∧ 2 ≤ c.romBanks ∧ c.ramBanks = 6 ∧ c.dockBanks = 8 := by
  obtain ⟨-, hf, hp⟩ := valid_parts h
  simp only [Cfg.slotsFixed, Cfg.poolsValid, hs, Bool.and_eq_true, decide_eq_true_eq] at hf hp
  omega

/-- The home target of every slot names a bank of its pool that BANK holds, and no DOCK bank (R242 to R245). -/
theorem homeTarget_ok {c : Cfg} (hv : c.valid = true) (paging : BitVec 6) {i : Nat} (hi : i < c.slotCount) :
    targetOk c (homeTarget c paging i) = true ∧ targetFits (homeTarget c paging i) = true ∧
      (homeTarget c paging i).kind ≠ .dock := by
  cases hk : c.variant with
  | base =>
    obtain ⟨-, hrom, hram⟩ := valid_base hv hk
    simp only [homeTarget, hk, homeBase]
    split
    · exact ⟨decide_eq_true (show 0 < c.romBanks by omega), rfl, nofun⟩
    · split
      · exact ⟨decide_eq_true (by assumption), decide_eq_true (show i - 1 < 256 by omega), nofun⟩
      · exact ⟨rfl, rfl, nofun⟩
  | paged =>
    obtain ⟨hn, hrom, hram⟩ := valid_paged hv hk
    have hrs := (paging.extractLsb' 4 1).isLt
    have hb3 := (paging.extractLsb' 0 3).isLt
    rw [hn] at hi
    simp only [homeTarget, hk, targetOk, targetFits, decide_eq_true_eq]
    interval_cases i <;> simp only [homePaged, poolSize, hrom, hram] <;> exact ⟨by omega, by omega, nofun⟩
  | scld =>
    obtain ⟨hn, hrom, hram, -⟩ := valid_scld hv hk
    simp only [homeTarget, hk, homeScld]
    split
    · exact ⟨decide_eq_true (show i < c.romBanks by omega), decide_eq_true (show i < 256 by omega), nofun⟩
    · exact ⟨decide_eq_true (show i - 2 < c.ramBanks by omega), decide_eq_true (show i - 2 < 256 by omega), nofun⟩

/-- An accepted target that BANK holds is stored in range, with CONT the contended predicate (R44, R241). -/
theorem targetSlot_inv {c : Cfg} {t : Target} (hok : targetOk c t = true) (hfit : targetFits t = true) :
    (targetSlot c t).cont = contended c.variant (targetSlot c t).kind (targetSlot c t).bank.toNat ∧
      (targetSlot c t).bank.toNat < poolSize c (targetSlot c t).kind := by
  rw [targetSlot_bank hfit]
  exact ⟨rfl, of_decide_eq_true hok⟩

/-! The invariant at power-on, part by part (R51). -/

section
variable {c : Cfg} (hv : c.valid = true)
include hv

theorem powerOn_ctrl : (State.powerOn c).ctrl = .running := by simp [State.powerOn, hv]

theorem powerOn_fault : (State.powerOn c).fault = 0 := by simp [State.powerOn, hv]

theorem powerOn_slotsInv : SlotsInv (State.powerOn c) := by
  refine ⟨by simp [State.powerOn, homeTable], fun e he => ?_⟩
  obtain ⟨i, hi, rfl⟩ := List.mem_map.1 he
  obtain ⟨hok, hfit, hdock⟩ := homeTarget_ok hv 0 (List.mem_range.1 hi)
  obtain ⟨hcont, hbank⟩ := targetSlot_inv hok hfit
  exact ⟨hcont, hbank, fun h => absurd h hdock⟩

theorem powerOn_idleInv : IdleInv (State.powerOn c) := by
  have hn : ¬ c.n ≤ 0 := by have := (valid_parts hv).1; omega
  refine ⟨by simp [State.powerOn], fun _ _ => ?_⟩
  rw [powerOn_ctrl hv]
  simp [idleCtrl, State.powerOn, hn]

theorem powerOn_clockInv : ClockInv (State.powerOn c) := by
  have hn := (valid_parts hv).1
  refine ⟨show 0 < 2 * c.n by omega, ?_, ?_⟩
  · intro k hk
    simp [State.powerOn, cpuCallOf] at hk
  · intro k b hk
    simp [State.powerOn] at hk

end

theorem powerOn_logsInv (c : Cfg) : LogsInv (State.powerOn c) := by
  intro id
  have hl : logOf (State.powerOn c).logs id = SubLog.fresh 0 := by cases id <;> rfl
  simp [SubLogInv, hl, SubLog.fresh]

theorem powerOn_devInv (c : Cfg) : DevInv (State.powerOn c) := by simp [DevInv, State.powerOn]

theorem powerOn_pendInv (c : Cfg) : PendInv (State.powerOn c) := by simp [PendInv, State.powerOn]

theorem powerOn_ramInv (c : Cfg) : RamInv (State.powerOn c) := by simp [RamInv, State.powerOn, ramWf]

/-- Settles O3, part by part of the invariant. -/
theorem powerOnInv : Obligations.PowerOnInv := fun c hv =>
  { cfg := hv
    slots := powerOn_slotsInv hv
    logs := powerOn_logsInv c
    fault := .inl ⟨powerOn_fault hv, by simp [powerOn_ctrl hv]⟩
    idle := powerOn_idleInv hv
    clock := powerOn_clockInv hv
    dev := powerOn_devInv c
    variant := ⟨fun _ => rfl, fun _ => ⟨rfl, rfl⟩⟩
    ram := powerOn_ramInv c
    pend := powerOn_pendInv c
    logClock := fun _ => Nat.le_refl 0 }

end Sys2Proof.Machine

namespace Sys2Proof.Machine

/-! `note` with room (R292, R293): the turns taken so far, one sub-log at a time. -/

/-- The state after `note`'s turns for the sub-logs of `l`, where every append had room (R293). -/
def State.notedOn (ts : Stamp) (l : List LogId) (s : State) : State :=
  let kept := fun j => if j ∈ l then notedLog s ts j else logOf s.logs j
  { s with
    logs := ⟨kept .border, kept .mode, kept .shadow, kept .source⟩
    lastLogTs := if l.any (recorded s) then ts else s.lastLogTs }

theorem logs_ext {a b : Logs} (h : ∀ j, logOf a j = logOf b j) : a = b := by
  obtain ⟨hb, hm, hsh, hso⟩ := And.intro (h .border) (And.intro (h .mode) (And.intro (h .shadow) (h .source)))
  cases a
  cases b
  cases hb
  cases hm
  cases hsh
  cases hso
  rfl

theorem logOf_mk (f : LogId → SubLog) (j : LogId) : logOf ⟨f .border, f .mode, f .shadow, f .source⟩ j = f j := by
  cases j <;> rfl

theorem logOf_notedOn (ts : Stamp) (l : List LogId) (s : State) (j : LogId) :
    logOf (s.notedOn ts l).logs j = if j ∈ l then notedLog s ts j else logOf s.logs j :=
  logOf_mk (fun j => if j ∈ l then notedLog s ts j else logOf s.logs j) j

/-- A state whose log is that of the turns taken, and nothing else changed, is the state after them. -/
theorem eq_notedOn {ts t : Stamp} {l : List LogId} {s : State} {lg : Logs}
    (hlg : ∀ j, logOf lg j = if j ∈ l then notedLog s ts j else logOf s.logs j)
    (ht : t = if l.any (recorded s) then ts else s.lastLogTs) :
    { s with logs := lg, lastLogTs := t } = s.notedOn ts l := by
  have hl : lg = (s.notedOn ts l).logs := logs_ext fun j => (hlg j).trans (logOf_notedOn ts l s j).symm
  rw [hl, ht]
  rfl

theorem notedOn_nil (ts : Stamp) (s : State) : s.notedOn ts [] = s := rfl

theorem notedOn_logIds (ts : Stamp) (s : State) : s.notedOn ts logIds = s.noted ts := rfl

/-- A turn of `note` appends exactly where the sub-log is recorded (R293). -/
theorem noteOne_eq (ts : Stamp) (id : LogId) (s : State) :
    noteOne ts id s = if recorded s id then logAppend id ts (eff s id) s else s := by
  simp only [noteOne, recorded, bne, decide_not, beq_eq_decide]

/-- The effective values are those of the registers and the table, which the log's turns leave. -/
@[simp] theorem eff_notedOn (ts : Stamp) (l : List LogId) (s : State) (id : LogId) : eff (s.notedOn ts l) id = eff s id :=
  rfl

theorem recorded_notedOn {ts : Stamp} {l : List LogId} {s : State} {id : LogId} (h : id ∉ l) :
    recorded (s.notedOn ts l) id = recorded s id := by
  unfold recorded
  rw [logOf_notedOn, if_neg h]
  rfl

/-- A turn with nothing to append or with room for it joins the turns taken (R292, R293). -/
theorem noteOne_notedOn {ts : Stamp} {l : List LogId} {s : State} {id : LogId} (hid : id ∉ l)
    (hroom : recorded s id = true →
      s.lastLogTs.toNat ≤ ts.toNat ∧ (logOf s.logs id).entries.length < s.cfg.logCapacity) :
    noteOne ts id (s.notedOn ts l) = s.notedOn ts (l ++ [id]) := by
  rw [noteOne_eq, recorded_notedOn hid]
  split
  · next hrec =>
    obtain ⟨hts, hlen⟩ := hroom hrec
    have hlast : ¬ ts.toNat < (s.notedOn ts l).lastLogTs.toNat := by
      simp only [State.notedOn]
      split <;> omega
    have hlen' : (logOf s.logs id).entries.length ≠ (s.notedOn ts l).cfg.logCapacity := Nat.ne_of_lt hlen
    unfold logAppend
    rw [if_neg hlast, logOf_notedOn, if_neg hid, if_neg hlen']
    refine eq_notedOn (l := l ++ [id]) (t := ts) (s := s) (fun j => ?_) (by simp [hrec])
    by_cases hj : j = id
    · subst hj
      simp [notedLog, hrec]
    · simp [logOf_setLog_other _ _ hj, logOf_notedOn, hj]
  · next hrec =>
    refine eq_notedOn (lg := (s.notedOn ts l).logs) (t := (s.notedOn ts l).lastLogTs) (fun j => ?_) ?_
    · rw [logOf_notedOn]
      by_cases hj : j = id
      · subst hj
        simp [hid, notedLog, hrec]
      · simp [hj]
    · simp [State.notedOn, hrec]

/-- With room in the sub-logs it appends to, `note` is the four turns taken (R293). -/
theorem note_eq_noted {s : State} {ts : Stamp} (hs : s.ctrl ≠ .faulted) (hroom : s.LogRoom ts) :
    note ts s = s.noted ts := by
  have turn : ∀ {l id}, id ∉ l → unlessFaulted (noteOne ts id) (s.notedOn ts l) = s.notedOn ts (l ++ [id]) :=
    fun {l id} hid =>
    (unlessFaulted_of_not (s := s.notedOn ts l) hs).trans (noteOne_notedOn hid (hroom id (mem_logIds id)))
  calc note ts s
    _ = unlessFaulted (noteOne ts .source) (unlessFaulted (noteOne ts .shadow) (unlessFaulted (noteOne ts .mode)
          (unlessFaulted (noteOne ts .border) (s.notedOn ts [])))) := rfl
    _ = s.notedOn ts logIds := by
      rw [turn (by simp), turn (by simp), turn (by simp), turn (by simp)]
      rfl
    _ = s.noted ts := notedOn_logIds ts s

end Sys2Proof.Machine

namespace Sys2Proof.Machine

/-! A host command within the frame that ends in a write and its `note` (R196, R252 to R254, R372). -/

/-- The state a command is performed in (R28, R191). -/
def State.performing (s : State) : State := { s with busy := true }

/-- Within the frame a command that ends at once is its rule, performed with BUSY set (R191, R196). -/
theorem hostCommand_inFrame {c : Cmd} {s : State} (hr : s.Ready) (hf : s.InFrame)
    (hidle : (afterEnsure c s.performing).pend = .idle) :
    hostCommand true (fun s => settleAll (ensure c s)) s = .next (afterEnsure c s.performing) := by
  have hover : frameOver s.performing = false := decide_eq_false (show ¬ s.cfg.n ≤ s.tsc.toNat by omega)
  have hacc : accept true (fun s => settleAll (ensure c s)) s = settleAll (ensure c s.performing) := accept_ready hr
  have hens : ensure c s.performing = afterEnsure c s.performing := by simp [ensure, hover]
  rw [hostCommand, hacc, hens, settleAll_idle hidle]

/-- The end of a command outside FAULTED is its reply (R27, R191). -/
theorem endCmd_eq_replied {r : Result} {v : BitVec 64} {s : State} (h : s.ctrl ≠ .faulted) :
    endCmd r v s = s.replied r v := by
  simp [endCmd_of_not h, finish, h, State.replied, idleCtrl]

theorem raise_eq_withFault {b : FaultBit} {s : State} (h : s.ctrl ≠ .faulted) : raise b s = s.withFault b :=
  raise_of_not_faulted h

/-- A write that faults ends its command (R412). -/
theorem writeThenNote_of_raise {write : State → State} {s u : State} {b : FaultBit} (hw : write s = raise b u)
    (hu : u.ctrl ≠ .faulted) : writeThenNote write s = u.stopped b := by
  have hf : (raise b u).ctrl = .faulted := raise_ctrl b u
  rw [writeThenNote, hw, unlessFaulted_of_faulted hf, endCmd_of_faulted hf, raise_eq_withFault hu]
  rfl

/-- A write that does not fault is logged at TSC and replied, where the log has room (R252, R293). -/
theorem writeThenNote_of_room {write : State → State} {s : State} (hu : (write s).ctrl ≠ .faulted)
    (hroom : (write s).LogRoom (write s).tsc) :
    writeThenNote write s = State.replied .ok 0 ((write s).noted (write s).tsc) := by
  rw [writeThenNote, unlessFaulted_of_not hu, note_eq_noted hu hroom,
    endCmd_eq_replied (s := (write s).noted (write s).tsc) hu]

theorem writeThenNote_pend (write : State → State) (s : State) : (writeThenNote write s).pend = .idle := endCmd_pend _ _ _

/-- MAP_PAGED on SCLD within the frame (R252). -/
theorem exec_mapPaged_inFrame {s : State} (pool : Bool) (mask : BitVec 8) (hr : s.Ready) (hf : s.InFrame)
    (hv : s.cfg.variant = .scld) :
    exec (.mapPaged pool mask) s = .next (writeThenNote (mapPagedWrite pool mask) s.performing) := by
  simp only [exec, execMapPaged, hv, decide_true]
  exact hostCommand_inFrame hr hf (writeThenNote_pend _ _)

/-- WRREG of a writable register within the frame (R372). -/
theorem exec_wrreg_inFrame {s : State} {reg : BitVec 8} (value : BitVec 8) {r : WritableReg} (hr : s.Ready) (hf : s.InFrame)
    (hreg : writableRegOf s.cfg.variant reg = some r) :
    exec (.wrreg reg value) s = .next (writeThenNote (writeReg r value) s.performing) := by
  have hafter : afterEnsure (.wrreg reg value) s.performing
      = writeThenNote (writeReg r value) s.performing := by
    simp [afterEnsure, wrregAfter, State.performing, hreg]
  simp only [exec, execWrreg, hreg, Option.isSome_some]
  rw [hostCommand_inFrame hr hf (by rw [hafter]; exact writeThenNote_pend _ _), hafter]

/-! The SCLD mapping under a valid record (R246 to R250). -/

/-- What `change_mem_paged` asks a slot for, where it asks (R248). -/
theorem pagedTarget_eq_some {s : State} {want : SlotSrc} {i : Nat} {t : Target} (h : pagedTarget s want i = some t) :
    want ≠ (slotEntry s.slots i).src ∧
      ((want = .home ∧ t = homeTarget s.cfg s.paging i) ∨ (want = .ex ∧ t = exTarget s.cfg i) ∨
        (want = .dock ∧ t = dockTarget i)) := by
  unfold pagedTarget at h
  split at h
  · cases h
  · next hne => exact ⟨hne, by cases want <;> cases h <;> simp⟩

theorem wantedSrc_ne_fixed (hsr : BitVec 8) (pool : Bool) (i : Nat) : wantedSrc hsr pool i ≠ .fixed := by
  unfold wantedSrc
  cases hsr.getLsbD i <;> cases pool <;> decide

/-- The extension-ROM entry of a slot whose bank BANK holds (R247). -/
theorem targetSlot_exTarget {c : Cfg} {i : Nat} (h : exBank c i < 256) :
    targetSlot c (exTarget c i) = ⟨.rom, .ex, BitVec.ofNat 8 (exBank c i), false⟩ := by
  have hfit : targetFits (exTarget c i) = true := decide_eq_true h
  simp only [targetSlot, hfit, if_true]
  rfl

/-- The DOCK entry of a slot (R246). -/
theorem targetSlot_dockTarget (c : Cfg) {i : Nat} (h : i < 256) :
    targetSlot c (dockTarget i) = ⟨.dock, .dock, BitVec.ofNat 8 i, false⟩ := by
  have hfit : targetFits (dockTarget i) = true := decide_eq_true h
  simp only [targetSlot, hfit, if_true]
  rfl

/-- MAP_PAGED's registers written, the table not yet (R252). -/
def State.pagedAsked (pool : Bool) (mask : BitVec 8) (s : State) : State :=
  { s.pagedMapped pool mask with slots := s.slots }

theorem mapPagedWrite_eq (pool : Bool) (mask : BitVec 8) (s : State) :
    mapPagedWrite pool mask s = applyScld (s.pagedAsked pool mask) := by
  have hmode : ∀ m : BitVec 8,
      BitVec.ofBool pool ++ m.extractLsb' 0 7 = (m &&& 0x7F ||| (if pool then 0x80 else 0) : BitVec 8) := by
    cases pool <;> decide
  rw [mapPagedWrite, hmode]
  rfl

theorem poolSel_pagedAsked (pool : Bool) (mask : BitVec 8) (s : State) : poolSel (s.pagedAsked pool mask) = pool := by
  cases pool <;> simp [poolSel, State.pagedAsked, State.pagedMapped]

section
variable {s : State} (hv : s.cfg.valid = true) (hs : s.cfg.variant = .scld)
include hv hs

/-- Every slot's target is in its pool, so no mapping raises CONFIG (R350). -/
theorem pagedPlan_targetOk (want : Nat → SlotSrc) : pagedPlan (targetOk s.cfg) want s = true := by
  simp only [pagedPlan, List.all_eq_true, List.mem_range, Option.all_eq_true]
  intro i hi t ht
  obtain ⟨-, ⟨-, rfl⟩ | ⟨-, rfl⟩ | ⟨-, rfl⟩⟩ := pagedTarget_eq_some ht
  · exact (homeTarget_ok hv _ hi).1
  · exact exTarget_ok hv hs i
  · obtain ⟨hn, -, -, hdock⟩ := valid_scld hv hs
    exact decide_eq_true (show i < s.cfg.dockBanks by omega)

/-- Only an extension bank can be one that BANK does not hold (log entry 18). -/
theorem pagedPlan_targetFits (hsr : BitVec 8) (pool : Bool) :
    pagedPlan targetFits (wantedSrc hsr pool) s = true ↔ s.ExBanksFit hsr pool := by
  simp only [pagedPlan, List.all_eq_true, List.mem_range, Option.all_eq_true]
  constructor
  · intro h i hi hw hsrc
    exact of_decide_eq_true (h i hi (exTarget s.cfg i) (by simp [pagedTarget, hw, Ne.symm hsrc]))
  · intro h i hi t ht
    obtain ⟨hne, ⟨-, rfl⟩ | ⟨hw, rfl⟩ | ⟨-, rfl⟩⟩ := pagedTarget_eq_some ht
    · exact (homeTarget_ok hv _ hi).2.1
    · exact decide_eq_true (h i hi hw (by rw [hw] at hne; exact hne.symm))
    · obtain ⟨hn, -⟩ := valid_scld hv hs
      exact decide_eq_true (show i < 256 by omega)

/-- The home entry of a slot is the stored home target (R244). -/
theorem targetSlot_homeTarget_scld {i : Nat} (hi : i < s.cfg.slotCount) :
    targetSlot s.cfg (homeTarget s.cfg s.paging i) = homeEntry s.cfg s.paging i := by
  rw [(valid_scld hv hs).1] at hi
  interval_cases i <;> simp [homeTarget, homeScld, homeEntry, hs, targetSlot, targetFits, contended]

/-- The entry of a slot after the change, where BANK holds its bank (R248). -/
theorem pagedEntry_eq {hsr : BitVec 8} {pool : Bool} (hfit : s.ExBanksFit hsr pool) {i : Nat} (hi : i < s.cfg.slotCount) :
    pagedEntry (wantedSrc hsr pool) s i =
      if (slotEntry s.slots i).src = wantedSrc hsr pool i then slotEntry s.slots i
      else wantedEntry s.cfg s.paging i (wantedSrc hsr pool i) := by
  by_cases hsrc : (slotEntry s.slots i).src = wantedSrc hsr pool i
  · simp [pagedEntry, pagedTarget, hsrc]
  have hne := Ne.symm hsrc
  rw [if_neg hsrc]
  cases hw : wantedSrc hsr pool i with
  | home =>
    rw [hw] at hne
    simpa [pagedEntry, pagedTarget, hw, hne, wantedEntry] using targetSlot_homeTarget_scld hv hs hi
  | ex =>
    have hbank := hfit i hi hw (hw ▸ hsrc)
    rw [hw] at hne
    simpa [pagedEntry, pagedTarget, hw, hne, wantedEntry] using targetSlot_exTarget hbank
  | dock =>
    rw [hw] at hne
    have h8 : i < 256 := by have := (valid_scld hv hs).1; omega
    simpa [pagedEntry, pagedTarget, hw, hne, wantedEntry] using targetSlot_dockTarget s.cfg h8
  | fixed => exact absurd hw (wantedSrc_ne_fixed hsr pool i)

/-- Where BANK holds every extension bank, `apply_scld` maps the table R248 names (R250). -/
theorem applyScld_of_fits (hfit : s.ExBanksFit s.hsr (poolSel s)) :
    applyScld s = { s with slots := pagedSlots s s.hsr (poolSel s) } := by
  have hok := pagedPlan_targetOk hv hs (scldMapping s)
  have hfits := (pagedPlan_targetFits hv hs s.hsr (poolSel s)).2 hfit
  obtain ⟨-, -, h⟩ | ⟨-, hno, -⟩ | ⟨hno, -⟩ := changeMemPaged_cases (scldMapping s) s
  · have hslots : (List.range s.cfg.slotCount).map (pagedEntry (scldMapping s) s) = pagedSlots s s.hsr (poolSel s) :=
      List.map_congr_left fun i hi => pagedEntry_eq hv hs hfit (List.mem_range.1 hi)
    rw [applyScld, h, hslots]
  · exact absurd (hfits.symm.trans hno) (by decide)
  · exact absurd (hok.symm.trans hno) (by decide)

/-- Where BANK does not hold one of them, no slot is changed and the fault is not CONFIG (R350, log entry 18). -/
theorem applyScld_of_not_fits (hfit : ¬ s.ExBanksFit s.hsr (poolSel s)) : applyScld s = raise bankFaultBit s := by
  obtain ⟨-, hyes, -⟩ | ⟨-, -, h⟩ | ⟨hno, -⟩ := changeMemPaged_cases (scldMapping s) s
  · exact absurd ((pagedPlan_targetFits hv hs s.hsr (poolSel s)).1 hyes) hfit
  · exact h
  · exact absurd ((pagedPlan_targetOk hv hs (scldMapping s)).symm.trans hno) (by decide)

/-! The three writes that change the mapping (R252, R349, R350, R375, R376). -/

theorem writeMode_of_fits {v : Byte} (hfit : s.ExBanksFit s.hsr (v.getLsbD 7)) : writeMode v s = s.modeWritten v :=
  applyScld_of_fits (s := { s with mode := v }) hv hs hfit

theorem writeMode_of_not_fits {v : Byte} (hfit : ¬ s.ExBanksFit s.hsr (v.getLsbD 7)) :
    writeMode v s = raise bankFaultBit { s with mode := v } :=
  applyScld_of_not_fits (s := { s with mode := v }) hv hs hfit

theorem writeHsr_of_fits {v : Byte} (hfit : s.ExBanksFit v (s.mode.getLsbD 7)) : writeHsr v s = s.hsrWritten v :=
  applyScld_of_fits (s := { s with hsr := v }) hv hs hfit

theorem writeHsr_of_not_fits {v : Byte} (hfit : ¬ s.ExBanksFit v (s.mode.getLsbD 7)) :
    writeHsr v s = raise bankFaultBit { s with hsr := v } :=
  applyScld_of_not_fits (s := { s with hsr := v }) hv hs hfit

theorem mapPagedWrite_of_fits {pool : Bool} {mask : BitVec 8} (hfit : s.ExBanksFit mask pool) :
    mapPagedWrite pool mask s = s.pagedMapped pool mask := by
  have h := applyScld_of_fits (s := s.pagedAsked pool mask) hv hs (by rw [poolSel_pagedAsked]; exact hfit)
  rw [poolSel_pagedAsked] at h
  rw [mapPagedWrite_eq, h]
  rfl

theorem mapPagedWrite_of_not_fits {pool : Bool} {mask : BitVec 8} (hfit : ¬ s.ExBanksFit mask pool) :
    mapPagedWrite pool mask s = raise bankFaultBit (s.pagedAsked pool mask) := by
  rw [mapPagedWrite_eq]
  exact applyScld_of_not_fits (s := s.pagedAsked pool mask) hv hs (by rw [poolSel_pagedAsked]; exact hfit)

end

/-- MODE and HSR are the registers WRREG writes on SCLD (R375, R376). -/
theorem exec_wrreg_mode {s : State} (v : BitVec 8) (hr : s.Ready) (hf : s.InFrame) (hs : s.cfg.variant = .scld) :
    exec (.wrreg 0x13 v) s = .next (writeThenNote (writeMode v) s.performing) :=
  exec_wrreg_inFrame v (r := .mode) hr hf (by simp [writableRegOf, hs])

theorem exec_wrreg_hsr {s : State} (v : BitVec 8) (hr : s.Ready) (hf : s.InFrame) (hs : s.cfg.variant = .scld) :
    exec (.wrreg 0x14 v) s = .next (writeThenNote (writeHsr v) s.performing) :=
  exec_wrreg_inFrame v (r := .hsr) hr hf (by simp [writableRegOf, hs])

/-- A write whose state within the command is `u` with BUSY set is logged and replied from `u`, where the log has room. -/
theorem writeThenNote_busy {write : State → State} {s u : State} (hw : write s.performing = u.performing)
    (hu : u.ctrl ≠ .faulted) (hroom : u.LogRoom u.tsc) :
    writeThenNote write s.performing = State.replied .ok 0 (u.noted u.tsc) := by
  rw [writeThenNote_of_room (by rw [hw]; exact hu) (by rw [hw]; exact hroom), hw]
  rfl

/-- Settles O30: `apply_scld` after HSR and POOL_SEL, then `note`. -/
theorem mapPagedMapsSlots : Obligations.MapPagedMapsSlots := by
  intro s pool mask hr hf hv hs
  rw [exec_mapPaged_inFrame pool mask hr hf hs]
  refine ⟨fun hfit hroom => ?_, fun hfit => ⟨bankFaultBit, bankFaultBit_ne_config, ?_⟩⟩
  · have hw : mapPagedWrite pool mask s.performing = (s.pagedMapped pool mask).performing :=
      mapPagedWrite_of_fits (s := s.performing) hv hs hfit
    rw [writeThenNote_busy hw hr.2 hroom]
    rfl
  · rw [writeThenNote_of_raise (mapPagedWrite_of_not_fits (s := s.performing) hv hs hfit) hr.2]
    rfl

/-- Settles O37: `apply_scld` after MODE or HSR, then `note`. -/
theorem wrregScld : Obligations.WrregScld := by
  intro s v hr hf hv hs
  rw [exec_wrreg_mode v hr hf hs, exec_wrreg_hsr v hr hf hs]
  refine ⟨fun hfit hroom => ?_, fun hfit hroom => ?_, fun hfit => ⟨bankFaultBit, bankFaultBit_ne_config, ?_⟩,
    fun hfit => ⟨bankFaultBit, bankFaultBit_ne_config, ?_⟩⟩
  · have hw : writeMode v s.performing = (s.modeWritten v).performing :=
      writeMode_of_fits (s := s.performing) hv hs hfit
    rw [writeThenNote_busy hw hr.2 hroom]
    rfl
  · have hw : writeHsr v s.performing = (s.hsrWritten v).performing :=
      writeHsr_of_fits (s := s.performing) hv hs hfit
    rw [writeThenNote_busy hw hr.2 hroom]
    rfl
  · rw [writeThenNote_of_raise (writeMode_of_not_fits (s := s.performing) hv hs hfit) hr.2]
    rfl
  · rw [writeThenNote_of_raise (writeHsr_of_not_fits (s := s.performing) hv hs hfit) hr.2]
    rfl

end Sys2Proof.Machine

namespace Sys2Proof.Machine

/-! The register map (R120): the model's numbering, widths and values are the map's. -/

/-- The number of a register (R120). -/
def regNumber : HostReg → Nat
  | .tsc => 0x00
  | .frames => 0x01
  | .frameCycles => 0x02
  | .lineCycles => 0x03
  | .hpos => 0x04
  | .vpos => 0x05
  | .variant => 0x06
  | .ctrl => 0x07
  | .status => 0x08
  | .result => 0x09
  | .fault => 0x0A
  | .border => 0x10
  | .earmic => 0x11
  | .paging => 0x12
  | .mode => 0x13
  | .hsr => 0x14
  | .contSel => 0x15
  | .p3screen => 0x16
  | .shadowEff => 0x17
  | .hires => 0x18
  | .slot => 0x20
  | .slotCount => 0x21
  | .logCount => 0x30
  | .logEntry => 0x31
  | .logInit => 0x32
  | .devCount => 0x40
  | .devTag => 0x41
  | .devDepth => 0x42

/-- The registers in the order of their numbers (R120). -/
def hostRegs : List HostReg :=
  [.tsc, .frames, .frameCycles, .lineCycles, .hpos, .vpos, .variant, .ctrl, .status, .result, .fault,
   .border, .earmic, .paging, .mode, .hsr, .contSel, .p3screen, .shadowEff, .hires,
   .slot, .slotCount, .logCount, .logEntry, .logInit, .devCount, .devTag, .devDepth]

theorem mem_hostRegs (r : HostReg) : r ∈ hostRegs := by cases r <;> decide

/-- A word's register number names the register the map numbers so (R114). -/
theorem hostRegOf_eq_some {reg : BitVec 8} {r : HostReg} : hostRegOf reg = some r ↔ reg.toNat = regNumber r := by
  constructor
  · intro h
    unfold hostRegOf at h
    split at h <;> cases h <;> assumption
  · intro h
    have hreg : reg = BitVec.ofNat 8 (regNumber r) := by rw [← h, BitVec.ofNat_toNat, BitVec.setWidth_eq]
    subst hreg
    cases r <;> rfl

theorem regBits_eq (r : HostReg) : regBits r = registerWidth (regNumber r) := by cases r <;> rfl

/-! The values that are spelled differently in the map and in the model. -/

theorem ctrlCode_toNat (c : CtrlState) : ((0 : BitVec 4) ++ BitVec.ofBool false ++ ctrlCode c).toNat = ctrlNumber c := by
  cases c <;> decide

theorem resultCode_toNat (r : Result) : (resultCode r).toNat = resultNumber r := by cases r <;> rfl

/-- Five flags in the bits 4 to 0 of a byte (R123). -/
theorem flagBits_toNat : ∀ e d c b a : Bool,
    ((0 : BitVec 3) ++ BitVec.ofBool e ++ BitVec.ofBool d ++ BitVec.ofBool c ++ BitVec.ofBool b ++ BitVec.ofBool a).toNat
      = bit a + 2 * bit b + 4 * bit c + 8 * bit d + 16 * bit e := by decide

/-- The eight bits of a byte as their sum by weight (R39). -/
theorem byteOfBits_toNat (f : Nat → Bool) :
    (byteOfBits f).toNat = ((List.range 8).map fun i => 2 ^ i * bit (f i)).sum := by
  have eight : ∀ b₀ b₁ b₂ b₃ b₄ b₅ b₆ b₇ : Bool,
      let g := fun i => [b₀, b₁, b₂, b₃, b₄, b₅, b₆, b₇].getD i false
      (byteOfBits g).toNat = ((List.range 8).map fun i => 2 ^ i * bit (g i)).sum := by decide
  exact eight (f 0) (f 1) (f 2) (f 3) (f 4) (f 5) (f 6) (f 7)

theorem bit_eq_ofBool (b : Bool) : (BitVec.ofBool b).toNat = bit b := by cases b <;> rfl

/-- Appended fields add up by weight. -/
theorem append_toNat {m n : Nat} (x : BitVec m) (y : BitVec n) : (x ++ y).toNat = 2 ^ n * x.toNat + y.toNat := by
  rw [BitVec.toNat_append, ← Nat.shiftLeft_add_eq_or_of_lt y.isLt, Nat.shiftLeft_eq, Nat.mul_comm]

theorem slotWord_toNat (e : Slot) : (slotWord e).toNat = entryNumber e := by
  obtain ⟨kind, src, bank, cont⟩ := e
  simp only [slotWord, append_toNat, entryNumber, bit_eq_ofBool]
  cases kind <;> cases src <;> simp [kindCode, srcCode] <;> omega

theorem subLogAt_eq (s : State) (n : Nat) :
    subLogAt s n = (logIdOf n).map fun id => ((logIdCode id).toNat, logOf s.logs id) := by
  match n with
  | 0 => rfl
  | 1 => rfl
  | 2 => rfl
  | 3 => rfl
  | n + 4 => simp [subLogAt, logIdOf]

theorem logEntryWord_toNat (id : LogId) (e : LogEntry) :
    (logEntryWord id e).toNat = 2 ^ 32 * e.ts.toNat + 2 ^ 28 * (logIdCode id).toNat + e.data.toNat := by
  simp only [logEntryWord, append_toNat]
  simp; omega

theorem logEntryArg_toNat (s : State) (idx : BitVec 16) :
    (logEntryArg s idx).map BitVec.toNat = (subLogAt s (idx.toNat / 0x1000)).bind fun p =>
      p.2.entries[idx.toNat % 0x1000]?.map fun e => 2 ^ 32 * e.ts.toNat + 2 ^ 28 * p.1 + e.data.toNat := by
  have hhi : (idx.extractLsb' 12 4).toNat = idx.toNat / 0x1000 := by
    have := idx.isLt
    simp [Nat.shiftRight_eq_div_pow]; omega
  have hlo : (idx.extractLsb' 0 12).toNat = idx.toNat % 0x1000 := by simp
  rw [logEntryArg, hhi, hlo, subLogAt_eq]
  cases logIdOf (idx.toNat / 0x1000) with
  | none => rfl
  | some id => simp [Function.comp_def, logEntryWord_toNat]

theorem p3screen_toNat (s : State) : (p3screen s).toNat =
    if s.cfg.variant = .paged ∧ (slotEntry s.slots 3).kind = .ram ∧ (slotEntry s.slots 3).bank = 5 then 2
    else if s.cfg.variant = .paged ∧ (slotEntry s.slots 3).kind = .ram ∧ (slotEntry s.slots 3).bank = 7 then 3 else 0 := by
  cases hv : s.cfg.variant with
  | base => simp [p3screen, hv]
  | paged => simp [p3screen, hv, apply_ite BitVec.toNat]
  | scld => simp [p3screen, hv]

theorem shadowEff_toNat (s : State) : (BitVec.ofBool (shadowEff s)).toNat = (match s.cfg.variant with
    | .base => 0
    | .paged => bit (s.paging.getLsbD 3)
    | .scld => bit (decide (s.mode.toNat % 8 = 1))) := by
  unfold shadowEff
  cases s.cfg.variant with
  | base => rfl
  | paged => exact bit_eq_ofBool _
  | scld =>
    have hmode : (s.mode.extractLsb' 0 3 == 1) = decide (s.mode.toNat % 8 = 1) := by
      rw [beq_eq_decide, decide_eq_decide, ← BitVec.toNat_inj]
      simp
    exact (bit_eq_ofBool _).trans (congrArg bit hmode)

theorem hires_toNat (s : State) :
    (BitVec.ofBool (hires s)).toNat = if s.cfg.variant = .scld then bit (s.mode.getLsbD 2) else 0 := by
  unfold hires
  cases s.cfg.variant with
  | base => rfl
  | paged => rfl
  | scld => exact bit_eq_ofBool _

/-- RDREG's numbers and values are the register map's (R120, R371). -/
theorem registerMap_eq (s : State) (idx : BitVec 16) :
    registerMap s idx.toNat = hostRegs.map fun r => (regNumber r, readReg s idx r) := by
  have hvariant : (match s.cfg.variant with | .base => 0 | .paged => 1 | .scld => 2) = (variantTag s.cfg.variant).toNat := by
    cases s.cfg.variant <;> rfl
  have hlog : ∀ f : SubLog → Nat,
      (subLogAt s idx.toNat).map (fun p => f p.2) = (logIdArg idx).map fun id => f (logOf s.logs id) := fun f => by
    rw [subLogAt_eq, Option.map_map]
    rfl
  simp only [registerMap, hostRegs, List.map_cons, List.map_nil, List.cons_append, List.nil_append, regNumber, readReg,
    logEntryArg_toNat, p3screen_toNat, hires_toNat, slotWord_toNat, resultCode_toNat, contSel,
    byteOfBits_toNat, statusWord, flagBits_toNat, List.cons.injEq, Prod.mk.injEq, true_and, and_true]
  exact ⟨rfl, rfl, congrArg some hvariant, congrArg some (ctrlCode_toNat s.ctrl).symm, rfl,
    congrArg some (shadowEff_toNat s).symm, hlog fun l => l.entries.length, hlog fun l => l.init.toNat⟩

/-- Where the map gives `x` for a word's register, RDREG reads the register and has `x` as its number (R371). -/
theorem mem_registerMap {s : State} {reg : BitVec 8} {idx : BitVec 16} {x : Option Nat} :
    (reg.toNat, x) ∈ registerMap s idx.toNat ↔ ∃ r, hostRegOf reg = some r ∧ readReg s idx r = x := by
  simp only [registerMap_eq, List.mem_map, Prod.mk.injEq, hostRegOf_eq_some]
  exact ⟨fun ⟨r, _, hn, hx⟩ => ⟨r, hn.symm, hx⟩, fun ⟨r, hn, hx⟩ => ⟨r, mem_hostRegs r, hn.symm, hx⟩⟩

/-- A register the map has a value for is read with the map's width (R120). -/
theorem readRegNum_of_mem {s : State} {reg : BitVec 8} {idx : BitVec 16} {n : Nat}
    (h : (reg.toNat, some n) ∈ registerMap s idx.toNat) : readRegNum s reg idx = some (registerWidth reg.toNat, n) := by
  obtain ⟨r, hr, hn⟩ := mem_registerMap.1 h
  simp [readRegNum, hr, hn, regBits_eq, ← hostRegOf_eq_some.1 hr]

/-- A register the map has no value for, and a number it lacks, are not read (R114). -/
theorem readRegNum_of_not_mem {s : State} {reg : BitVec 8} {idx : BitVec 16}
    (h : (reg.toNat, none) ∈ registerMap s idx.toNat ∨ ∀ x, (reg.toNat, x) ∉ registerMap s idx.toNat) :
    readRegNum s reg idx = none := by
  rcases h with h | h
  · obtain ⟨r, hr, hn⟩ := mem_registerMap.1 h
    simp [readRegNum, hr, hn]
  · cases hr : hostRegOf reg with
    | none => simp [readRegNum, hr]
    | some r => exact absurd (mem_registerMap.2 ⟨r, hr, rfl⟩) (h _)

/-- With no command active RDREG answers what it read (R191, R371). -/
theorem exec_rdreg_of_some {s : State} {reg : BitVec 8} {idx : BitVec 16} {bits n : Nat} (hb : s.busy = false)
    (h : readRegNum s reg idx = some (bits, n)) : exec (.rdreg reg idx) s = .next (replyReg bits n s) := by
  simp [exec, execRdreg, h, acceptRead, hb]

theorem exec_rdreg_of_none {s : State} {reg : BitVec 8} {idx : BitVec 16} (hb : s.busy = false)
    (h : readRegNum s reg idx = none) : exec (.rdreg reg idx) s = .next s.refusedReply := by
  simp [exec, execRdreg, h, acceptRead, hb, refuseCmd, State.refusedReply]

/-- What RDREG replies with no command active: the value, and CTRL.STATE by the idle rule unless FAULTED (R27, R371). -/
theorem replyReg_of_lt {s : State} {bits n : Nat} (hb : s.busy = false) (h : n < 2 ^ bits) :
    replyReg bits n s =
      { s with result := .ok, value := BitVec.ofNat 64 n, pend := .idle,
               ctrl := if s.ctrl = .faulted then .faulted
                 else if s.cfg.n ≤ s.tsc.toNat then .atFrameBoundary else .running } := by
  rw [replyReg, if_pos h, finish, ← hb]
  rfl

/-- A number that the register does not hold is CONFIG, and in FAULTED the reply FAULTED (log entry 27). -/
theorem replyReg_of_le {s : State} {bits n : Nat} (hb : s.busy = false) (h : 2 ^ bits ≤ n) :
    replyReg bits n s =
      if s.ctrl = .faulted then { s with result := .faulted, value := 0, pend := .idle } else s.stopped .config := by
  rw [replyReg, if_neg (Nat.not_lt.2 h)]
  split
  · next hf =>
    rw [raise_of_faulted hf, stopCmd, ← hb]
    rfl
  · next hf =>
    rw [raise_eq_withFault hf]
    rfl

theorem length_leBytes (n v : Nat) : (leBytes n v).length = n := by simp [leBytes]

/-- Byte `i` of VALUE holds its bits from `8 i` on (R76). -/
theorem valueBytes_getElem? (s : State) {i : Nat} (h : i < 8) :
    (valueBytes s)[i]? = some (s.value.extractLsb' (8 * i) 8) := by
  simp [valueBytes, leBytes, List.getElem?_range h]
  rfl

/-- Settles O34, from the register map's identity with what RDREG reads. -/
theorem rdregReadsMap : Obligations.RdregReadsMap := by
  intro s reg idx hb
  refine ⟨fun n hm hn => ?_, fun n hm hn => ?_, fun hm => ?_, length_leBytes _ _, fun i => valueBytes_getElem? s⟩
  · rw [exec_rdreg_of_some hb (readRegNum_of_mem hm), replyReg_of_lt hb hn]
  · rw [exec_rdreg_of_some hb (readRegNum_of_mem hm), replyReg_of_le hb hn]
  · exact exec_rdreg_of_none hb (readRegNum_of_not_mem hm)

end Sys2Proof.Machine

namespace Sys2Proof.Machine

/-! The wait of an I/O cycle (R257, R258). -/

/-- A port's line `i` is clear where its number has an even quotient by `2 ^ i` (R134). -/
theorem not_getLsbD_eq (p : Addr) (i : Nat) : (!p.getLsbD i) = decide (p.toNat / 2 ^ i % 2 = 0) := by
  rw [BitVec.getLsbD, Nat.testBit_eq_decide_div_mod_eq]
  rcases Nat.mod_two_eq_zero_or_one (p.toNat / 2 ^ i) with h | h <;> simp [h]

theorem not_getLsbD_zero_eq (p : Addr) : (!p.getLsbD 0) = decide (p.toNat % 2 = 0) := by
  rw [not_getLsbD_eq, Nat.pow_zero, Nat.div_one]

/-- The four I/O patterns end after the delays they meet and four cycles (R258). -/
theorem ioEnd_sub (s : State) (p : Addr) (ts : Stamp) (hv : s.cfg.variant ≠ .scld) :
    ioEnd s.cfg (slotEntry s.slots (slotIndex s.cfg p)).cont (!p.getLsbD 0) ts.toNat - ts.toNat - 4 = ioDelay s p ts := by
  simp only [ioDelay, hv, if_false, slotIndex, not_getLsbD_zero_eq]
  cases (slotEntry s.slots (p.toNat / s.cfg.slotSize)).cont <;> rcases Nat.mod_two_eq_zero_or_one p.toNat with h | h <;>
    simp [ioEnd, delayed, h] <;> omega

/-- `io_wait` is the delays met, where WAIT holds them (R118, R258). -/
theorem ioWait_eq (p : Addr) (ts : Stamp) (s : State) : ioWait p ts s = waitOf (ioDelay s p ts) := by
  unfold ioWait
  cases hv : s.cfg.variant with
  | base => exact congrArg waitOf (ioEnd_sub s p ts (by simp [hv]))
  | paged => exact congrArg waitOf (ioEnd_sub s p ts (by simp [hv]))
  | scld => simp [ioDelay, hv]

/-- A cycle at `ts` goes on with its wait, or raises CONFIG where WAIT does not hold it (log entry 19). -/
theorem withWait_atBus {s : State} (hs : s.ctrl ≠ .faulted) (ts : Stamp) (d : Nat) (f : BitVec 32 → State → State) :
    withWait (waitOf d) f (s.atBus ts) = waited ts d s fun w => f w (s.atBus ts) := by
  unfold waitOf waited
  split
  · rfl
  · exact raise_eq_withFault (s := { s.atBus ts with busReply := BusReply.zero }) hs

/-! The chipset's port decodes (R134, R345). -/

theorem extractLow_beq (p : Addr) (n : Nat) (hn : n < 256) :
    (p.extractLsb' 0 8 == BitVec.ofNat 8 n) = decide (p.toNat % 256 = n) := by
  rw [beq_eq_decide, decide_eq_decide, ← BitVec.toNat_inj]
  simp [Nat.mod_eq_of_lt hn]

theorem portMatches_ula (v : Variant) (p : Addr) : portMatches v p .ula = ulaPort v p := by
  cases v with
  | base => exact not_getLsbD_zero_eq p
  | paged => exact not_getLsbD_zero_eq p
  | scld => exact extractLow_beq p 0xFE (by decide)

theorem portMatches_paging (v : Variant) (p : Addr) : portMatches v p .paging = pagingPort v p := by
  have hhigh : decide (p.toNat / 2 ^ 15 % 2 = 0) = decide (p.toNat < 0x8000) := by
    have := p.isLt
    rw [decide_eq_decide]
    omega
  simp only [portMatches, pagingPort, not_getLsbD_eq, hhigh, Nat.pow_one]

theorem portMatches_mode (v : Variant) (p : Addr) : portMatches v p .mode = scldPort v 0xFF p :=
  congrArg (decide (v = .scld) && ·) (extractLow_beq p 0xFF (by decide))

theorem portMatches_hsr (v : Variant) (p : Addr) : portMatches v p .hsr = scldPort v 0xF4 p :=
  congrArg (decide (v = .scld) && ·) (extractLow_beq p 0xF4 (by decide))

theorem chipsetTakesWrite_eq (c : Cfg) (p : Addr) : chipsetTakesWrite c p = chipsetPort c.variant p := by
  simp only [chipsetTakesWrite, chipsetPort, portMatches_ula, portMatches_paging, portMatches_mode, portMatches_hsr]

/-- A port selects MODE and HSR on SCLD only (R134). -/
theorem scldPort_variant {v : Variant} {low : Nat} {p : Addr} (h : scldPort v low p = true) : v = .scld := by
  simp only [scldPort, Bool.and_eq_true, decide_eq_true_eq] at h
  exact h.1

/-- No port selects both MODE and HSR (R134). -/
theorem scldPort_hsr_of_mode {v : Variant} {p : Addr} (h : scldPort v 0xFF p = true) : scldPort v 0xF4 p = false := by
  simp only [scldPort, Bool.and_eq_true, decide_eq_true_eq, Bool.and_eq_false_iff, decide_eq_false_iff_not] at h ⊢
  omega

theorem pagingPort_variant {v : Variant} {p : Addr} (h : pagingPort v p = true) : v = .paged := by
  simp only [pagingPort, Bool.and_eq_true, decide_eq_true_eq] at h
  exact h.1.1

/-! The latch of PAGED under a valid record (R243, R251). -/

/-- `remap` of a target the record accepts and BANK holds writes its entry (R241). -/
theorem remap_of_ok {i : Nat} {t : Target} {s : State} (hi : i < s.cfg.slotCount) (hok : targetOk s.cfg t = true)
    (hfit : targetFits t = true) : remap i t s = { s with slots := s.slots.set i (targetSlot s.cfg t) } := by
  simp [remap, hi, hok, hfit]

section
variable {s : State} (hv : s.cfg.valid = true) (hp : s.cfg.variant = .paged)
include hv hp

/-- The latch's ROM goes into slot 0 (R243, R251). -/
theorem remap_romSel : remap 0 ⟨.rom, .home, (romSel s.paging).toNat⟩ s =
    { s with slots := s.slots.set 0 ⟨.rom, .home, if s.paging.getLsbD 4 then 1 else 0, false⟩ } := by
  obtain ⟨hn, hrom, -⟩ := valid_paged hv hp
  have hlt := (romSel s.paging).toNat_lt
  have hentry : targetSlot s.cfg ⟨.rom, .home, (romSel s.paging).toNat⟩
      = ⟨.rom, .home, if s.paging.getLsbD 4 then 1 else 0, false⟩ := by
    unfold romSel
    cases s.paging.getLsbD 4 <;> simp [targetSlot, targetFits, contended]
  rw [← hentry]
  exact remap_of_ok (by omega) (decide_eq_true (show (romSel s.paging).toNat < s.cfg.romBanks by omega))
    (decide_eq_true (show (romSel s.paging).toNat < 256 by omega))

/-- The latch's RAM bank goes into slot 3 (R243, R251). -/
theorem remap_bank3 : remap 3 ⟨.ram, .home, (bank3 s.paging).toNat⟩ s =
    { s with slots := s.slots.set 3 ⟨.ram, .home, s.paging.setWidth 8 &&& 7, s.paging.getLsbD 0⟩ } := by
  obtain ⟨hn, -, hram⟩ := valid_paged hv hp
  have hlt := (bank3 s.paging).isLt
  have hbits : ∀ q : BitVec 6, (bank3 q).toNat < 256 ∧ BitVec.ofNat 8 (bank3 q).toNat = q.setWidth 8 &&& 7 ∧
      decide ((bank3 q).toNat % 2 = 1) = q.getLsbD 0 := by decide
  obtain ⟨hfit, hbank, hcont⟩ := hbits s.paging
  have hentry : targetSlot s.cfg ⟨.ram, .home, (bank3 s.paging).toNat⟩
      = ⟨.ram, .home, s.paging.setWidth 8 &&& 7, s.paging.getLsbD 0⟩ := by
    simp only [targetSlot, targetFits, contended, hp, hfit, decide_true, if_true, hbank, hcont]
  rw [← hentry]
  exact remap_of_ok (by omega) (decide_eq_true (show (bank3 s.paging).toNat < s.cfg.ramBanks by omega))
    (decide_eq_true hfit)

/-- The two `remap`s of a latch write (R251). -/
theorem remapLatch_eq (hs : s.ctrl ≠ .faulted) :
    remapLatch s =
      { s with
        slots := (s.slots.set 0 ⟨.rom, .home, if s.paging.getLsbD 4 then 1 else 0, false⟩).set 3
          ⟨.ram, .home, s.paging.setWidth 8 &&& 7, s.paging.getLsbD 0⟩ } := by
  rw [remapLatch, remap_romSel hv hp]
  refine (unlessFaulted_of_not ?_).trans (remap_bank3 ?_ ?_)
  · exact hs
  · exact hv
  · exact hp

end

/-- A latch write that the lock does not stop (R251). -/
theorem writePaging_eq_latched {s : State} (hv : s.cfg.valid = true) (hp : s.cfg.variant = .paged) (hs : s.ctrl ≠ .faulted)
    {v : Byte} {forced : Bool} (hlock : (lockBit s.paging && !forced) = false) : writePaging v forced s = s.latched v := by
  have hbits : ∀ v : Byte, (v.extractLsb' 0 6).getLsbD 4 = v.getLsbD 4 ∧ (v.extractLsb' 0 6).setWidth 8 &&& 7 = v &&& 7 ∧
      (v.extractLsb' 0 6).getLsbD 0 = v.getLsbD 0 ∧ v.extractLsb' 0 6 = v.setWidth 6 := by decide
  obtain ⟨hrom, hbank, hcont, hpaging⟩ := hbits v
  rw [writePaging, hlock, if_neg Bool.false_ne_true,
    remapLatch_eq (s := { s with paging := v.extractLsb' 0 6 }) hv hp hs, State.latched, hrom, hbank, hcont, hpaging]

/-- A locked latch keeps its value and its table (R35, R251). -/
theorem writePaging_locked {s : State} {v : Byte} (hlock : lockBit s.paging = true) : writePaging v false s = s := by
  simp [writePaging, hlock]

/-! A port write, register by register (R345 to R350). -/

/-- The ULA's turn of a port write (R346). -/
def State.ulaWritten (p : Addr) (v : Byte) (s : State) : State :=
  if ulaPort s.cfg.variant p then { s with border := v.setWidth 3, earmic := (v >>> 3).setWidth 2 } else s

/-- The turns of the ULA and of the latch, which a port write takes first (R345, R348). -/
def State.latchTurn (p : Addr) (v : Byte) (s : State) : State :=
  if pagingPort s.cfg.variant p && !s.paging.getLsbD 5 then (s.ulaWritten p v).latched v else s.ulaWritten p v

/-- The SCLD registers come after the ULA and the latch (R345). -/
theorem portWritten_eq (p : Addr) (v : Byte) (s : State) :
    s.portWritten p v =
      if scldPort s.cfg.variant 0xFF p then (s.latchTurn p v).modeWritten v
      else if scldPort s.cfg.variant 0xF4 p then (s.latchTurn p v).hsrWritten v
      else s.latchTurn p v := rfl

section
variable (p : Addr) (v : Byte) (ts : Stamp) (s : State)

@[simp] theorem ulaWritten_cfg : (s.ulaWritten p v).cfg = s.cfg := by unfold State.ulaWritten; split <;> rfl
@[simp] theorem ulaWritten_ctrl : (s.ulaWritten p v).ctrl = s.ctrl := by unfold State.ulaWritten; split <;> rfl
@[simp] theorem ulaWritten_paging : (s.ulaWritten p v).paging = s.paging := by unfold State.ulaWritten; split <;> rfl
@[simp] theorem ulaWritten_mode : (s.ulaWritten p v).mode = s.mode := by unfold State.ulaWritten; split <;> rfl
@[simp] theorem ulaWritten_hsr : (s.ulaWritten p v).hsr = s.hsr := by unfold State.ulaWritten; split <;> rfl
@[simp] theorem ulaWritten_slots : (s.ulaWritten p v).slots = s.slots := by unfold State.ulaWritten; split <;> rfl
@[simp] theorem latchTurn_cfg : (s.latchTurn p v).cfg = s.cfg := by
  unfold State.latchTurn; split <;> simp [State.latched]
@[simp] theorem latchTurn_ctrl : (s.latchTurn p v).ctrl = s.ctrl := by
  unfold State.latchTurn; split <;> simp [State.latched]

theorem ulaWritten_atBus : (s.atBus ts).ulaWritten p v = (s.ulaWritten p v).atBus ts := by
  by_cases h : ulaPort s.cfg.variant p <;> simp [State.ulaWritten, State.atBus, h]

theorem latchTurn_atBus : (s.atBus ts).latchTurn p v = (s.latchTurn p v).atBus ts := by
  unfold State.latchTurn
  rw [ulaWritten_atBus, atBus_cfg, atBus_paging]
  split <;> rfl

theorem portWritten_atBus : (s.atBus ts).portWritten p v = (s.portWritten p v).atBus ts := by
  rw [portWritten_eq, portWritten_eq, latchTurn_atBus, atBus_cfg]
  split
  · rfl
  · split <;> rfl

/-- The extension banks a change would map depend on the record and the table alone. -/
theorem exBanksFit_ulaWritten (hsr : BitVec 8) (pool : Bool) :
    (s.ulaWritten p v).ExBanksFit hsr pool ↔ s.ExBanksFit hsr pool := by
  simp only [State.ExBanksFit, ulaWritten_cfg, ulaWritten_slots]

end

/-- Off the latch's variant the first two turns write the ULA alone. -/
theorem latchTurn_of_ne {p : Addr} {v : Byte} {s : State} (h : s.cfg.variant ≠ .paged) :
    s.latchTurn p v = s.ulaWritten p v := by
  have hno : pagingPort s.cfg.variant p = false := by
    cases hp : pagingPort s.cfg.variant p with
    | false => rfl
    | true => exact absurd (pagingPort_variant hp) h
  simp [State.latchTurn, hno]

/-- The ULA's turn (R346). -/
theorem writeIfMatches_ula (p : Addr) (v : Byte) (s : State) : writeIfMatches p v .ula s = s.ulaWritten p v := by
  have hbits : ∀ v : Byte, v.extractLsb' 0 3 = v.setWidth 3 ∧ v.extractLsb' 3 2 = (v >>> 3).setWidth 2 := by decide
  obtain ⟨hborder, hearmic⟩ := hbits v
  rw [writeIfMatches, portMatches_ula, writeChipReg, writeUla, hborder, hearmic]
  rfl

/-- The latch's turn (R348). -/
theorem writeIfMatches_paging {p : Addr} {v : Byte} {s : State} (hv : s.cfg.valid = true) (hs : s.ctrl ≠ .faulted) :
    writeIfMatches p v .paging (s.ulaWritten p v) = s.latchTurn p v := by
  rw [writeIfMatches, portMatches_paging, ulaWritten_cfg, State.latchTurn]
  cases hp : pagingPort s.cfg.variant p with
  | false => rfl
  | true =>
    have hvar := pagingPort_variant hp
    cases hl : s.paging.getLsbD 5 with
    | false =>
      exact writePaging_eq_latched (by simpa using hv) (by simpa using hvar) (by simpa using hs)
        (by rw [lockBit, ulaWritten_paging, hl]; rfl)
    | true => exact writePaging_locked (by rw [lockBit, ulaWritten_paging, hl])

/-- The registers' turns of a port write, without its `note` (R345). -/
def chipsetTurns (p : Addr) (v : Byte) (s : State) : State :=
  unlessFaulted (writeIfMatches p v .hsr) (unlessFaulted (writeIfMatches p v .mode)
    (unlessFaulted (writeIfMatches p v .paging) (writeIfMatches p v .ula s)))

theorem chipsetWrite_eq (p : Addr) (v : Byte) (ts : Stamp) (s : State) :
    chipsetWrite p v ts s = unlessFaulted (note ts) (chipsetTurns p v s) := rfl

section
variable {p : Addr} {v : Byte} {s : State} (hv : s.cfg.valid = true) (hs : s.ctrl ≠ .faulted)
include hv hs

/-- After the ULA and the latch come MODE and HSR (R345). -/
theorem chipsetTurns_eq : chipsetTurns p v s =
    unlessFaulted (writeIfMatches p v .hsr) (writeIfMatches p v .mode (s.latchTurn p v)) := by
  rw [chipsetTurns, writeIfMatches_ula,
    unlessFaulted_of_not (f := writeIfMatches p v .paging) (by simpa using hs), writeIfMatches_paging hv hs,
    unlessFaulted_of_not (f := writeIfMatches p v .mode) (by simpa using hs)]

theorem chipsetTurns_mode (hp : scldPort s.cfg.variant 0xFF p = true) :
    chipsetTurns p v s = writeMode v (s.latchTurn p v) := by
  have hhsr : ∀ t : State, t.cfg = s.cfg → writeIfMatches p v .hsr t = t := fun t ht => by
    simp [writeIfMatches, portMatches_hsr, ht, scldPort_hsr_of_mode hp]
  have hmode : writeIfMatches p v .mode (s.latchTurn p v) = writeMode v (s.latchTurn p v) := by
    simp [writeIfMatches, portMatches_mode, hp, writeChipReg]
  rw [chipsetTurns_eq hv hs, hmode, unlessFaulted, hhsr _ (by simp), ite_self]

theorem chipsetTurns_not_mode (hp : scldPort s.cfg.variant 0xFF p = false) : chipsetTurns p v s =
    if scldPort s.cfg.variant 0xF4 p then writeHsr v (s.latchTurn p v) else s.latchTurn p v := by
  have hmode : writeIfMatches p v .mode (s.latchTurn p v) = s.latchTurn p v := by
    simp [writeIfMatches, portMatches_mode, hp]
  rw [chipsetTurns_eq hv hs, hmode, unlessFaulted_of_not (by simpa using hs), writeIfMatches, portMatches_hsr, latchTurn_cfg]
  rfl

/-- The registers' turns end in the state R345 to R350 name, where BANK holds every extension bank. -/
theorem chipsetTurns_of_fits (hfit : s.PortBanksFit p v) : chipsetTurns p v s = s.portWritten p v := by
  have hv' : (s.ulaWritten p v).cfg.valid = true := by simpa using hv
  rw [portWritten_eq]
  cases hm : scldPort s.cfg.variant 0xFF p with
  | true =>
    have hvar := scldPort_variant hm
    rw [chipsetTurns_mode hv hs hm, latchTurn_of_ne (by simp [hvar])]
    exact writeMode_of_fits hv' (by simpa using hvar)
      ((exBanksFit_ulaWritten ..).2 (by rw [ulaWritten_hsr]; exact hfit.1 hm))
  | false =>
    rw [chipsetTurns_not_mode hv hs hm]
    cases hh : scldPort s.cfg.variant 0xF4 p with
    | true =>
      have hvar := scldPort_variant hh
      rw [latchTurn_of_ne (by simp [hvar])]
      exact writeHsr_of_fits hv' (by simpa using hvar)
        ((exBanksFit_ulaWritten ..).2 (by rw [ulaWritten_mode]; exact hfit.2 hh))
    | false => rfl

/-- Where BANK does not hold one of them, the register is written and the table unchanged (log entry 18). -/
theorem chipsetTurns_of_not_fits (hfit : ¬ s.PortBanksFit p v) :
    chipsetTurns p v s = raise bankFaultBit { s.portWritten p v with slots := s.slots } := by
  have hv' : (s.ulaWritten p v).cfg.valid = true := by simpa using hv
  rw [portWritten_eq, ← ulaWritten_slots p v s]
  cases hm : scldPort s.cfg.variant 0xFF p with
  | true =>
    have hvar := scldPort_variant hm
    have hno : ¬ s.ExBanksFit s.hsr (v.getLsbD 7) := fun h =>
      hfit ⟨fun _ => h, fun h4 => absurd h4 (by simp [scldPort_hsr_of_mode hm])⟩
    rw [chipsetTurns_mode hv hs hm, latchTurn_of_ne (by simp [hvar])]
    exact writeMode_of_not_fits hv' (by simpa using hvar)
      fun h => hno (by rw [ulaWritten_hsr] at h; exact (exBanksFit_ulaWritten ..).1 h)
  | false =>
    have hfit' : ¬ (scldPort s.cfg.variant 0xF4 p = true → s.ExBanksFit v (s.mode.getLsbD 7)) := fun h =>
      hfit ⟨fun hm' => absurd hm' (by simp [hm]), h⟩
    obtain ⟨hh, hno⟩ := Classical.not_imp.1 hfit'
    have hvar := scldPort_variant hh
    rw [chipsetTurns_not_mode hv hs hm, hh, latchTurn_of_ne (by simp [hvar])]
    exact writeHsr_of_not_fits hv' (by simpa using hvar)
      fun h => hno (by rw [ulaWritten_mode] at h; exact (exBanksFit_ulaWritten ..).1 h)

end

/-! IO_WRITE to a chipset port (R353). -/

/-- In a step or an NMI entry IO_WRITE to a chipset port is charged the wait of the table before the write (R90, R353). -/
theorem exec_ioWrite_chipset {s : State} {v : Byte} {p : Addr} {ts : Stamp} (hs : s.Serving) (ht : s.StampOk ts)
    (hp : chipsetPort s.cfg.variant p = true) :
    exec (.ioWrite v p ts) s
      = .next (waited ts (ioDelay s p ts) s fun w => answerWrite w (chipsetWrite p v ts (s.atBus ts))) := by
  obtain ⟨c, -, hc⟩ := busCycle_serving (fun c s => withWait (ioWait p ts s) (portWrite c p v ts) s) hs ht
  have hwait : ioWait p ts (s.atBus ts) = waitOf (ioDelay s p ts) := ioWait_eq p ts (s.atBus ts)
  have hwrite : ∀ w, portWrite c p v ts w (s.atBus ts) = answerWrite w (chipsetWrite p v ts (s.atBus ts)) := fun w => by
    rw [portWrite, chipsetTakesWrite_eq, atBus_cfg, hp, if_pos rfl]
  simp only [exec, execIoWrite, onBus_serving _ hs, serveIoWrite, hc, hwait, withWait_atBus hs.1, hwrite]

theorem portWritten_ctrl (p : Addr) (v : Byte) (s : State) : (s.portWritten p v).ctrl = s.ctrl := by
  rw [portWritten_eq]
  split
  · exact latchTurn_ctrl p v s
  · split <;> exact latchTurn_ctrl p v s

/-- A chipset write that maps and has room in the log is answered with its wait (R353). -/
theorem answerWrite_of_room {s : State} {v : Byte} {p : Addr} {ts : Stamp} (hs : s.ctrl ≠ .faulted)
    (hv : s.cfg.valid = true) (hfit : s.PortBanksFit p v) (hroom : (s.portWritten p v).LogRoom ts) (w : BitVec 32) :
    answerWrite w (chipsetWrite p v ts (s.atBus ts)) = State.busReplied ts 0 w (State.noted ts (s.portWritten p v)) := by
  have hctrl : ((s.portWritten p v).atBus ts).ctrl ≠ .faulted := by rw [atBus_ctrl, portWritten_ctrl]; exact hs
  have hturns : chipsetTurns p v (s.atBus ts) = (s.portWritten p v).atBus ts :=
    (chipsetTurns_of_fits (s := s.atBus ts) hv hs hfit).trans (portWritten_atBus p v ts s)
  have hnote : note ts ((s.portWritten p v).atBus ts) = ((s.portWritten p v).atBus ts).noted ts := note_eq_noted hctrl hroom
  rw [chipsetWrite_eq, hturns, unlessFaulted_of_not hctrl, hnote]
  exact if_neg hctrl

/-- A chipset write that maps a bank BANK does not hold is answered with zeros (R412, log entry 18). -/
theorem answerWrite_of_not_fits {s : State} {v : Byte} {p : Addr} {ts : Stamp} (hs : s.ctrl ≠ .faulted)
    (hv : s.cfg.valid = true) (hfit : ¬ s.PortBanksFit p v) (w : BitVec 32) :
    answerWrite w (chipsetWrite p v ts (s.atBus ts)) =
      State.busFaulted ts bankFaultBit { s.portWritten p v with slots := s.slots } := by
  have hturns : chipsetTurns p v (s.atBus ts) =
      raise bankFaultBit { (s.portWritten p v).atBus ts with slots := s.slots } := by
    rw [← portWritten_atBus]
    exact chipsetTurns_of_not_fits (s := s.atBus ts) hv hs hfit
  rw [chipsetWrite_eq, hturns, unlessFaulted_of_faulted (raise_ctrl _ _), answerWrite, if_pos (raise_ctrl _ _),
    raise_eq_withFault (by simpa [portWritten_ctrl] using hs)]
  rfl

/-- Settles O57: the registers' turns, then one `note`, after the wait of the table before the write. -/
theorem ioWriteChipset : Obligations.IoWriteChipset := by
  intro s v p ts hs ht hv hp
  refine ⟨fun hfit hroom => ?_, fun hfit => ⟨bankFaultBit, bankFaultBit_ne_config, ?_⟩⟩
  · rw [exec_ioWrite_chipset hs ht hp, funext (answerWrite_of_room hs.1 hv hfit hroom)]
  · rw [exec_ioWrite_chipset hs ht hp, funext (answerWrite_of_not_fits hs.1 hv hfit)]

end Sys2Proof.Machine

namespace Sys2Proof.Machine

/-! The invariant without its outstanding call: what every operation inside a command keeps too. -/

/-- The parts of the invariant that do not speak of the outstanding call. -/
structure CoreInv (s : State) : Prop where
  cfg     : s.cfg.valid = true
  slots   : SlotsInv s
  logs    : LogsInv s
  fault   : FaultInv s
  dev     : DevInv s
  variant : VariantInv s
  ram     : RamInv s
  tsc     : s.tsc.toNat < 2 * s.cfg.n

/-- `t` with every field that `CoreInv` reads taken from `s`. -/
def State.withCoreOf (t s : State) : State :=
  { t with cfg := s.cfg, tsc := s.tsc, ctrl := s.ctrl, fault := s.fault, paging := s.paging, mode := s.mode, hsr := s.hsr,
           slots := s.slots, logs := s.logs, lastLogTs := s.lastLogTs, dev := s.dev, ram := s.ram }

/-- `t` with every field that `Inv` reads taken from `s`. -/
def State.withInvOf (t s : State) : State :=
  { t.withCoreOf s with busy := s.busy, pend := s.pend, stepStart := s.stepStart, lastBusTs := s.lastBusTs,
                        busUsed := s.busUsed, payload := s.payload }

theorem CoreInv.keep {s t : State} (h : CoreInv s) (he : t.withCoreOf s = t := by rfl) : CoreInv t := by
  have hs : CoreInv (t.withCoreOf s) := ⟨h.cfg, h.slots, h.logs, h.fault, h.dev, h.variant, h.ram, h.tsc⟩
  exact he ▸ hs

theorem Inv.keep {s t : State} (h : Inv s) (he : t.withInvOf s = t := by rfl) : Inv t := by
  have hs : Inv (t.withInvOf s) :=
    ⟨h.cfg, h.slots, h.logs, h.fault, h.idle, h.clock, h.dev, h.variant, h.ram, h.pend, h.logClock⟩
  exact he ▸ hs

theorem Inv.core {s : State} (h : Inv s) : CoreInv s :=
  ⟨h.cfg, h.slots, h.logs, h.fault, h.dev, h.variant, h.ram, h.clock.1⟩

/-! Faults (R412, R420). -/

theorem CoreInv.fault_zero {s : State} (h : CoreInv s) (hc : s.ctrl ≠ .faulted) : s.fault = 0 := by
  obtain ⟨h0, -⟩ | ⟨hf, -⟩ := h.fault
  · exact h0
  · exact absurd hf hc

theorem FaultInv.raise {s : State} (h : FaultInv s) (b : FaultBit) : FaultInv (raise b s) := by
  obtain ⟨h0, hc⟩ | ⟨hc, hb⟩ := h
  · refine .inr ⟨raise_ctrl b s, b, ?_⟩
    simp [raise_of_not_faulted hc, h0]
  · rw [raise_of_faulted hc]
    exact .inr ⟨hc, hb⟩

theorem CoreInv.raise {s : State} (h : CoreInv s) (b : FaultBit) : CoreInv (raise b s) := by
  by_cases hc : s.ctrl = .faulted
  · rwa [raise_of_faulted hc]
  · have hf := h.fault.raise b
    rw [raise_of_not_faulted hc] at hf ⊢
    exact { h with fault := hf }

/-- Outside FAULTED the control state may be any other. -/
theorem CoreInv.setCtrl {s : State} (h : CoreInv s) (hs : s.ctrl ≠ .faulted) {c : CtrlState} (hc : c ≠ .faulted) :
    CoreInv { s with ctrl := c } :=
  { h with fault := .inl ⟨h.fault_zero hs, hc⟩ }

end Sys2Proof.Machine

namespace Sys2Proof.Machine

/-! The log (R45 to R48, R292 to R299). -/

theorem SubLogInv.fresh {s : State} {id : LogId} {v : BitVec 16} (hl : logOf s.logs id = SubLog.fresh v)
    (hv : logActive s.cfg.variant id = false → v = 0) : SubLogInv s id := by
  simp only [SubLogInv, hl]
  exact ⟨Nat.zero_le _, fun h => by rw [hv h], rfl, List.Pairwise.nil, by simp [SubLog.fresh]⟩

/-- A sub-log that `log_restart` left is in order (R298). -/
theorem logsInv_logRestart (s : State) : LogsInv (logRestart s) := fun id =>
  .fresh (v := eff s id) (by cases id <;> rfl) fun h => by simp only [logRestart_cfg] at h; simp [eff, h]

theorem CoreInv.logRestart {s : State} (h : CoreInv s) : CoreInv (logRestart s) :=
  { h with logs := logsInv_logRestart s }

/-- An append with room, in order, to a sub-log the variant has (R292). -/
theorem SubLogInv.append {s : State} {id : LogId} {ts : Stamp} (v : BitVec 16) (h : SubLogInv s id)
    (ha : logActive s.cfg.variant id = true) (hts : s.lastLogTs.toNat ≤ ts.toNat)
    (hlen : (logOf s.logs id).entries.length ≠ s.cfg.logCapacity) {l : Logs}
    (hl : logOf l id = { logOf s.logs id with last := v, entries := (logOf s.logs id).entries ++ [⟨ts, v⟩] }) :
    SubLogInv { s with logs := l, lastLogTs := ts } id := by
  obtain ⟨hcap, -, -, hord, hbound⟩ := h
  simp only [SubLogInv, hl, List.length_append, List.length_singleton, List.getLast?_append, List.pairwise_append,
    List.mem_append, List.mem_singleton]
  refine ⟨by omega, fun hno => absurd (ha.symm.trans hno) (by decide), by simp, ⟨hord, by simp, ?_⟩, ?_⟩
  · rintro a ha _ rfl
    exact (hbound a ha).trans hts
  · rintro e (he | rfl)
    · exact (hbound e he).trans hts
    · exact le_rfl

/-- A later append elsewhere leaves a sub-log in order. -/
theorem SubLogInv.other {s : State} {j : LogId} {ts : Stamp} (h : SubLogInv s j) (hts : s.lastLogTs.toNat ≤ ts.toNat)
    {l : Logs} (hl : logOf l j = logOf s.logs j) : SubLogInv { s with logs := l, lastLogTs := ts } j := by
  obtain ⟨hcap, hoff, hlast, hord, hbound⟩ := h
  simp only [SubLogInv, hl]
  exact ⟨hcap, hoff, hlast, hord, fun e he => (hbound e he).trans hts⟩

theorem CoreInv.noteOne {s : State} (h : CoreInv s) (ts : Stamp) (id : LogId) : CoreInv (noteOne ts id s) := by
  rw [noteOne_eq]
  split
  · next hrec =>
    have ha : logActive s.cfg.variant id = true := by
      simp only [recorded, Bool.and_eq_true] at hrec
      exact hrec.1.1
    obtain ⟨-, he⟩ | ⟨-, -, he⟩ | ⟨hts, hlen, he⟩ := logAppend_cases id ts (eff s id) s
    · rw [he]
      exact h.raise _
    · rw [he]
      exact h.raise _
    · rw [he]
      refine { h with logs := fun j => ?_ }
      by_cases hj : j = id
      · subst hj
        exact (h.logs j).append _ ha hts hlen (logOf_setLog_same ..)
      · exact (h.logs j).other hts (logOf_setLog_other _ _ hj)
  · exact h

theorem CoreInv.note {s : State} (h : CoreInv s) (ts : Stamp) : CoreInv (note ts s) :=
  note_induct CoreInv ts s h fun id _ _ ht => ht.noteOne ts id

/-- `note(ts)` leaves LAST_LOG_TS or moves it to `ts` (R292). -/
theorem note_lastLogTs_cases (ts : Stamp) (s : State) :
    (note ts s).lastLogTs = s.lastLogTs ∨ (note ts s).lastLogTs = ts := by
  refine note_induct (fun t => t.lastLogTs = s.lastLogTs ∨ t.lastLogTs = ts) ts s (.inl rfl) fun id t _ ht => ?_
  rw [noteOne_eq]
  split
  · obtain ⟨-, he⟩ | ⟨-, -, he⟩ | ⟨-, -, he⟩ := logAppend_cases id ts (eff t id) t
    · rw [he, raise_lastLogTs]; exact ht
    · rw [he, raise_lastLogTs]; exact ht
    · rw [he]; exact .inr rfl
  · exact ht

/-- Outside FAULTED the log's last timestamp is at most `ts` (R299). -/
def State.LoggedBy (s : State) (ts : Stamp) : Prop := s.ctrl ≠ .faulted → s.lastLogTs.toNat ≤ ts.toNat

theorem note_ctrl_ne {ts : Stamp} {s : State} (h : (note ts s).ctrl ≠ .faulted) : s.ctrl ≠ .faulted := by
  intro hs
  exact h (by simp [Machine.note, unlessFaulted, hs])

theorem State.LoggedBy.note {s : State} {ts : Stamp} (h : s.LoggedBy ts) : (note ts s).LoggedBy ts := by
  intro hc
  obtain he | he := note_lastLogTs_cases ts s
  · rw [he]; exact h (note_ctrl_ne hc)
  · rw [he]

/-! The bank table (R42 to R44, R241 to R254). -/

/-- An entry of a table in range (R42 to R44). -/
def SlotOk (c : Cfg) (e : Slot) : Prop :=
  e.cont = contended c.variant e.kind e.bank.toNat ∧ e.bank.toNat < poolSize c e.kind ∧
    (e.kind = .dock → c.variant = .scld)

theorem SlotOk.target {c : Cfg} {t : Target} (hok : targetOk c t = true) (hfit : targetFits t = true)
    (hdock : t.kind = .dock → c.variant = .scld) : SlotOk c (targetSlot c t) := by
  obtain ⟨hcont, hbank⟩ := targetSlot_inv hok hfit
  exact ⟨hcont, hbank, hdock⟩

theorem SlotOk.home {c : Cfg} (hv : c.valid = true) (paging : BitVec 6) {i : Nat} (hi : i < c.slotCount) :
    SlotOk c (targetSlot c (homeTarget c paging i)) := by
  obtain ⟨hok, hfit, hdock⟩ := homeTarget_ok hv paging hi
  exact .target hok hfit fun h => absurd h hdock

theorem slotsInv_of_range {s : State} {f : Nat → Slot} (h : ∀ i, i < s.cfg.slotCount → SlotOk s.cfg (f i)) :
    SlotsInv { s with slots := (List.range s.cfg.slotCount).map f } := by
  refine ⟨by simp, fun e he => ?_⟩
  obtain ⟨i, hi, rfl⟩ := List.mem_map.1 he
  exact h i (List.mem_range.1 hi)

theorem CoreInv.withTable {s : State} (h : CoreInv s) {f : Nat → Slot}
    (hf : ∀ i, i < s.cfg.slotCount → SlotOk s.cfg (f i)) : CoreInv { s with slots := (List.range s.cfg.slotCount).map f } :=
  { h with slots := slotsInv_of_range hf }

theorem SlotsInv.entry {s : State} (h : SlotsInv s) {i : Nat} (hi : i < s.cfg.slotCount) :
    SlotOk s.cfg (slotEntry s.slots i) := by
  obtain ⟨hlen, hmem⟩ := h
  have hi' : i < s.slots.length := by omega
  rw [slotEntry, List.getD_eq_getElem _ _ hi']
  exact hmem _ (List.getElem_mem hi')

theorem CoreInv.remap {s : State} (h : CoreInv s) (i : Nat) {t : Target} (ht : t.kind = .dock → s.cfg.variant = .scld) :
    CoreInv (remap i t s) := by
  obtain ⟨-, hok, hfit, he⟩ | ⟨-, -, -, he⟩ | ⟨-, he⟩ := remap_cases i t s
  · rw [he]
    refine { h with slots := ⟨by simpa using h.slots.1, fun e hm => ?_⟩ }
    obtain hm | rfl := List.mem_or_eq_of_mem_set hm
    · exact h.slots.2 e hm
    · exact SlotOk.target hok hfit ht
  · rw [he]; exact h.raise _
  · rw [he]; exact h.raise _

/-- On SCLD every entry `change_mem_paged` stores is in range (R248). -/
theorem CoreInv.changeMemPaged {s : State} (h : CoreInv s) (hs : s.cfg.variant = .scld) (want : Nat → SlotSrc) :
    CoreInv (changeMemPaged want s) := by
  obtain ⟨hok, hfit, he⟩ | ⟨-, -, he⟩ | ⟨-, he⟩ := changeMemPaged_cases want s
  · rw [he]
    refine h.withTable fun i hi => ?_
    simp only [pagedPlan, List.all_eq_true, List.mem_range, Option.all_eq_true] at hok hfit
    cases ht : pagedTarget s (want i) i with
    | none => simpa only [pagedEntry, ht] using h.slots.entry hi
    | some t => simpa only [pagedEntry, ht] using SlotOk.target (hok i hi t ht) (hfit i hi t ht) fun _ => hs
  · rw [he]; exact h.raise _
  · rw [he]; exact h.raise _

theorem CoreInv.remapLatch {s : State} (h : CoreInv s) : CoreInv (remapLatch s) := by
  have h0 := h.remap 0 (t := ⟨.rom, .home, (romSel s.paging).toNat⟩) nofun
  unfold Machine.remapLatch unlessFaulted
  split
  · exact h0
  · exact h0.remap 3 nofun

/-! The register writes (R251, R345 to R350, R372 to R376). -/

theorem CoreInv.writePaging {s : State} (h : CoreInv s) (hp : s.cfg.variant = .paged) (v : Byte) (forced : Bool) :
    CoreInv (writePaging v forced s) := by
  unfold Machine.writePaging
  split
  · exact h
  · have hvar : VariantInv { s with paging := v.extractLsb' 0 6 } := ⟨fun hno => absurd hp hno, h.variant.2⟩
    exact CoreInv.remapLatch { h with variant := hvar }

/-- On SCLD the registers of the mapping may be written, and the mapping follows (R250). -/
theorem CoreInv.scldWrite {s : State} (h : CoreInv s) (hs : s.cfg.variant = .scld) (mode hsr : BitVec 8) :
    CoreInv (applyScld { s with mode := mode, hsr := hsr }) := by
  have hvar : VariantInv { s with mode := mode, hsr := hsr } := ⟨h.variant.1, fun hno => absurd hs hno⟩
  exact CoreInv.changeMemPaged (s := { s with mode := mode, hsr := hsr }) { h with variant := hvar } hs _

theorem CoreInv.writeMode {s : State} (h : CoreInv s) (hs : s.cfg.variant = .scld) (v : Byte) : CoreInv (writeMode v s) :=
  h.scldWrite hs v s.hsr

theorem CoreInv.writeHsr {s : State} (h : CoreInv s) (hs : s.cfg.variant = .scld) (v : Byte) : CoreInv (writeHsr v s) :=
  h.scldWrite hs s.mode v

theorem CoreInv.mapPagedWrite {s : State} (h : CoreInv s) (hs : s.cfg.variant = .scld) (pool : Bool) (mask : BitVec 8) :
    CoreInv (mapPagedWrite pool mask s) := h.scldWrite hs _ mask

theorem CoreInv.writeReg {s : State} (h : CoreInv s) {reg : BitVec 8} {r : WritableReg}
    (hr : writableRegOf s.cfg.variant reg = some r) (v : BitVec 8) : CoreInv (writeReg r v s) := by
  unfold writableRegOf at hr
  split at hr
  · cases hr; exact h.keep
  · split at hr
    · next hp => cases hr; exact h.writePaging hp v true
    · cases hr
  · split at hr
    · next hs => cases hr; exact h.writeMode hs v
    · cases hr
  · split at hr
    · next hs => cases hr; exact h.writeHsr hs v
    · cases hr
  · cases hr

theorem CoreInv.writeIfMatches {s : State} (h : CoreInv s) (p : Addr) (v : Byte) (r : ChipReg) :
    CoreInv (writeIfMatches p v r s) := by
  unfold Machine.writeIfMatches
  split
  · next hm =>
    cases r with
    | ula => exact h.keep
    | paging => exact h.writePaging (pagingPort_variant (by rwa [portMatches_paging] at hm)) v false
    | mode => exact h.writeMode (scldPort_variant (by rwa [portMatches_mode] at hm)) v
    | hsr => exact h.writeHsr (scldPort_variant (by rwa [portMatches_hsr] at hm)) v
  · exact h

theorem CoreInv.chipsetWrite {s : State} (h : CoreInv s) (p : Addr) (v : Byte) (ts : Stamp) :
    CoreInv (chipsetWrite p v ts s) :=
  chipsetWrite_induct CoreInv p v ts s h (fun r _ ht => ht.writeIfMatches p v r) fun _ _ ht => ht.note ts

end Sys2Proof.Machine

namespace Sys2Proof.Machine

/-! The home table (R200, R242 to R245). -/

/-- The home entry of a slot is the stored home target, on every variant (R242 to R245). -/
theorem targetSlot_homeTarget {c : Cfg} (hv : c.valid = true) (paging : BitVec 6) {i : Nat} (hi : i < c.slotCount) :
    targetSlot c (homeTarget c paging i) = homeEntry c paging i := by
  cases hk : c.variant with
  | base =>
    obtain ⟨hn, -, hram⟩ := valid_base hv hk
    rw [hn] at hi
    simp only [homeTarget, homeEntry, hk, homeBase]
    split
    · simp [targetSlot, targetFits, contended]
    · split
      · have hfit : i - 1 < 256 := by omega
        have hcont : (i - 1 = 0) ↔ (i = 1) := by omega
        simp [targetSlot, targetFits, contended, hk, hfit, hcont]
      · simp [targetSlot, targetFits, contended]
  | paged =>
    have hbits : ∀ q : BitVec 6,
        BitVec.ofNat 8 (q.extractLsb' 4 1).toNat = (if q.getLsbD 4 then 1 else 0 : BitVec 8) ∧
        (q.extractLsb' 4 1).toNat < 256 ∧
        BitVec.ofNat 8 (q.extractLsb' 0 3).toNat = q.setWidth 8 &&& 7 ∧ (q.extractLsb' 0 3).toNat < 256 ∧
        decide ((q.extractLsb' 0 3).toNat % 2 = 1) = q.getLsbD 0 := by decide
    obtain ⟨hrom, hrom256, hbank, hbank256, hcont⟩ := hbits paging
    rw [(valid_paged hv hk).1] at hi
    simp only [homeTarget, homeEntry, hk]
    interval_cases i
    · simp only [homePaged, targetSlot, targetFits, hrom256, decide_true, if_true, hrom, contended]
    · simp [homePaged, targetSlot, targetFits, contended, hk]
    · simp [homePaged, targetSlot, targetFits, contended, hk]
    · simp only [homePaged, targetSlot, targetFits, hbank256, decide_true, if_true, hbank, contended, hk, hcont]
      rfl
  | scld => exact targetSlot_homeTarget_scld (s := { State.powerOn c with paging := paging }) hv hk hi

theorem homeTable_eq {c : Cfg} (hv : c.valid = true) (paging : BitVec 6) :
    homeTable c paging = (List.range c.slotCount).map (homeEntry c paging) :=
  List.map_congr_left fun _ hi => targetSlot_homeTarget hv paging (List.mem_range.1 hi)

/-- `s` with its first `k` slots put home (R200). -/
def State.homeUpTo (k : Nat) (s : State) : State :=
  { s with slots := (List.range s.cfg.slotCount).map fun i =>
      if i < k then targetSlot s.cfg (homeTarget s.cfg s.paging i) else slotEntry s.slots i }

theorem homeUpTo_zero {s : State} (hlen : s.slots.length = s.cfg.slotCount) : s.homeUpTo 0 = s := by
  have htable : (List.range s.cfg.slotCount).map (fun i =>
      if i < 0 then targetSlot s.cfg (homeTarget s.cfg s.paging i) else slotEntry s.slots i) = s.slots := by
    refine List.ext_getElem (by simp [hlen]) fun i h1 h2 => ?_
    simp [slotEntry, List.getElem?_eq_getElem h2]
  rw [State.homeUpTo, htable]

/-- One turn of RESET's loop over the slots (R200). -/
theorem remap_homeUpTo {s : State} (hv : s.cfg.valid = true) {k : Nat} (hk : k < s.cfg.slotCount) :
    remap k (homeTarget s.cfg s.paging k) (s.homeUpTo k) = s.homeUpTo (k + 1) := by
  obtain ⟨hok, hfit, -⟩ := homeTarget_ok hv s.paging hk
  have htable : (s.homeUpTo k).slots.set k (targetSlot s.cfg (homeTarget s.cfg s.paging k))
      = (s.homeUpTo (k + 1)).slots := by
    refine List.ext_getElem (by simp [State.homeUpTo]) fun i h1 h2 => ?_
    simp only [State.homeUpTo, List.getElem_set, List.getElem_map, List.getElem_range]
    by_cases h : k = i
    · subst h; simp
    · simp only [h, if_false, Nat.lt_succ_iff_lt_or_eq, Ne.symm h, or_false]
  rw [remap_of_ok (s := s.homeUpTo k) hk hok hfit]
  simp only [State.homeUpTo] at htable ⊢
  rw [htable]

/-- RESET's loop puts the whole table home (R200). -/
theorem remapHome_eq {s : State} (hv : s.cfg.valid = true) (hs : s.ctrl ≠ .faulted)
    (hlen : s.slots.length = s.cfg.slotCount) : remapHome s = { s with slots := homeTable s.cfg s.paging } := by
  have hloop : ∀ k, k ≤ s.cfg.slotCount → (List.range k).foldl
      (fun s i => unlessFaulted (fun s => remap i (homeTarget s.cfg s.paging i) s) s) s = s.homeUpTo k := by
    intro k
    induction k with
    | zero => exact fun _ => (homeUpTo_zero hlen).symm
    | succ k ih =>
      intro hk
      rw [List.range_succ, List.foldl_append, ih (by omega), List.foldl_cons, List.foldl_nil,
        unlessFaulted_of_not (s := s.homeUpTo k) hs]
      exact remap_homeUpTo hv hk
  have htable : (s.homeUpTo s.cfg.slotCount).slots = homeTable s.cfg s.paging :=
    List.map_congr_left fun i hi => if_pos (List.mem_range.1 hi)
  rw [remapHome, hloop _ le_rfl, ← htable]
  rfl

theorem CoreInv.softReset {s : State} (h : CoreInv s) : CoreInv (softReset s) := by
  refine { h with variant := ⟨h.variant.1, fun hs => ?_⟩ }
  have hmode : (Machine.softReset s).mode = s.mode := if_neg hs
  rw [hmode]
  exact h.variant.2 hs

theorem CoreInv.hardReset {s : State} (h : CoreInv s) : CoreInv (hardReset s) :=
  { h with variant := ⟨fun _ => rfl, fun _ => ⟨rfl, rfl⟩⟩ }

theorem CoreInv.remapHome {s : State} (h : CoreInv s) (hs : s.ctrl ≠ .faulted) : CoreInv (remapHome s) := by
  rw [remapHome_eq h.cfg hs h.slots.1]
  exact h.withTable fun i hi => .home h.cfg s.paging hi

/-! The RAM store (R50, R79). -/

/-- Under a valid record the slots cover the logical addresses, so a slot has a size (R10). -/
theorem valid_slotSize_pos {c : Cfg} (hv : c.valid = true) : 0 < c.slotSize := by
  obtain ⟨-, hs, -⟩ := valid_parts hv
  unfold Cfg.slotsFixed at hs
  cases hk : c.variant <;> simp only [hk, Bool.and_eq_true, decide_eq_true_eq] at hs <;> omega

/-- A slot whose entry is RAM is one of the table's, since a slot the table lacks is unpopulated. -/
theorem SlotsInv.ramEntry {s : State} (h : SlotsInv s) {i : Nat} (hk : (slotEntry s.slots i).kind = .ram) :
    (slotEntry s.slots i).bank.toNat < s.cfg.ramBanks := by
  have hi : i < s.slots.length := by
    by_contra hno
    rw [slotEntry, List.getD_eq_default _ _ (Nat.not_lt.1 hno)] at hk
    cases hk
  obtain ⟨-, hbank, -⟩ := h.entry (h.1 ▸ hi)
  rwa [hk] at hbank

/-- A byte of a bank below RAM_BANKS lies in the RAM (R50). -/
theorem ramAddr_lt {c : Cfg} (hv : c.valid = true) {bank : Nat} (hb : bank < c.ramBanks) (a : Addr) :
    ramAddr c bank (slotOffset c a) < ramBytes c :=
  calc ramAddr c bank (slotOffset c a)
    _ < bank * c.slotSize + c.slotSize := Nat.add_lt_add_left (Nat.mod_lt _ (valid_slotSize_pos hv)) _
    _ = (bank + 1) * c.slotSize := (Nat.succ_mul ..).symm
    _ ≤ ramBytes c := Nat.mul_le_mul_right _ hb

theorem CoreInv.ramStore {s : State} (h : CoreInv s) {k : Nat} (hk : k < ramBytes s.cfg) (v : Byte) :
    CoreInv (ramStore k v s) := by
  refine { h with ram := ⟨ramSet_wf _ _ h.ram.1, fun p hp => ?_⟩ }
  obtain rfl | hp := mem_ramSet hp
  · exact hk
  · exact h.ram.2 p hp

theorem CoreInv.memWrite {s : State} (h : CoreInv s) (a : Addr) (v : Byte) : CoreInv (memWrite a v s) := by
  unfold Machine.memWrite
  dsimp only
  split
  · next hk => exact h.ramStore (ramAddr_lt h.cfg (h.slots.ramEntry hk) a) v
  · exact h
  · exact h
  · exact h

/-! The state a snapshot loads (R380, R381). -/

/-- The checks of R380 that the invariant rests on. -/
theorem snapshotOk_parts {c : Cfg} {b : List Byte} (h : snapshotOk c b = true) :
    blobNat b 4 4 < 2 * c.n ∧ (c.variant ≠ .paged → blobByte b 18 = 0) ∧
      (c.variant ≠ .scld → blobByte b 19 = 0 ∧ blobByte b 20 = 0) ∧
      ∀ i, i < c.slotCount → slotWordOk c (blobSlotWord b i) = true := by
  simp only [snapshotOk, Bool.and_eq_true, Bool.or_eq_true, decide_eq_true_eq, beq_iff_eq, List.all_eq_true,
    List.mem_range] at h
  obtain ⟨⟨⟨⟨⟨⟨⟨⟨⟨⟨-, htsc⟩, -⟩, -⟩, -⟩, hpaging⟩, hscld⟩, hslots⟩, -⟩, -⟩, -⟩ := h
  exact ⟨htsc, fun hne => hpaging.resolve_right hne, fun hne => hscld.resolve_right hne, hslots⟩

theorem SlotOk.ofWord {c : Cfg} {w : BitVec 16} (h : slotWordOk c w = true) : SlotOk c (slotOfWord c w) := by
  simp only [slotWordOk, Bool.and_eq_true] at h
  obtain ⟨-, h⟩ := h
  cases hk : kindOf (w.extractLsb' 10 3) with
  | none => simp [hk] at h
  | some k =>
    simp only [hk, Bool.and_eq_true, Bool.or_eq_true, Bool.not_eq_true', decide_eq_true_eq, decide_eq_false_iff_not] at h
    obtain ⟨hbank, hdock⟩ := h
    simp only [SlotOk, slotOfWord, hk, Option.getD_some, true_and]
    exact ⟨hbank, fun hd => hdock.resolve_left (not_not_intro hd)⟩

theorem CoreInv.loadSnapshot {s : State} (h : CoreInv s) {b : List Byte} (hb : snapshotOk s.cfg b = true) :
    CoreInv (loadSnapshot b s) := by
  obtain ⟨htsc, hpaging, hscld, hslots⟩ := snapshotOk_parts hb
  refine { h with
    slots := slotsInv_of_range fun i hi => SlotOk.ofWord (hslots i hi)
    variant := ⟨?_, ?_⟩
    ram := ⟨?_, ?_⟩
    tsc := ?_ }
  · intro hne
    simp [Machine.loadSnapshot, hpaging hne]
  · intro hne
    exact hscld hne
  · exact ramOfBytes_wf _
  · intro p hp
    exact (lt_of_mem_ramOfBytes hp).trans_le (List.length_take_le ..)
  · exact (Nat.mod_le _ _).trans_lt htsc

end Sys2Proof.Machine

namespace Sys2Proof.Machine

/-! The registry (R49, R336, R341, R342). -/

/-- The depths of a chain form a pre-order (R336). -/
def PreOrder (l : List Device) : Prop :=
  (∀ d, l[0]? = some d → d.depth = 0) ∧
    ∀ k d e, l[k]? = some d → l[k + 1]? = some e → e.depth.toNat ≤ d.depth.toNat + 1

theorem DevInv.preOrder {s : State} (h : DevInv s) : PreOrder s.dev := h.2.2

/-- In a pre-order no device is deeper than its index. -/
theorem PreOrder.depth_le {l : List Device} (h : PreOrder l) {k : Nat} {d : Device} (hd : l[k]? = some d) :
    d.depth.toNat ≤ k := by
  induction k generalizing d with
  | zero => simp [h.1 d hd]
  | succ k ih =>
    obtain ⟨hk, -⟩ := List.getElem?_eq_some_iff.1 hd
    have hprev : l[k]? = some (l[k]'(by omega)) := List.getElem?_eq_getElem _
    have := h.2 k _ d hprev hd
    have := ih hprev
    omega

theorem getElem?_take_cons_drop {l : List Device} {k : Nat} (hk : k ≤ l.length) (x : Device) (j : Nat) :
    (l.take k ++ x :: l.drop k)[j]? = if j < k then l[j]? else if j = k then some x else l[j - 1]? := by
  rw [List.getElem?_append, List.length_take, Nat.min_eq_left hk, List.getElem?_take]
  split
  · rfl
  · rw [List.getElem?_cons, List.getElem?_drop]
    split
    · rw [if_pos (by omega)]
    · rw [if_neg (by omega)]
      congr 1
      omega

theorem getElem?_take_drop (l : List Device) {k e : Nat} (hk : k ≤ l.length) (j : Nat) :
    (l.take k ++ l.drop e)[j]? = if j < k then l[j]? else l[e + (j - k)]? := by
  rw [List.getElem?_append, List.length_take, Nat.min_eq_left hk, List.getElem?_take, List.getElem?_drop]
  split
  · rfl
  · rfl

/-- A device inserted no deeper than one below the device before it, and no shallower than one above the one after it. -/
theorem PreOrder.insert {l : List Device} (h : PreOrder l) {k : Nat} (hk : k ≤ l.length) {x : Device}
    (hhead : k = 0 → x.depth = 0) (hprev : ∀ d, 0 < k → l[k - 1]? = some d → x.depth.toNat ≤ d.depth.toNat + 1)
    (hnext : ∀ e, l[k]? = some e → e.depth.toNat ≤ x.depth.toNat + 1) : PreOrder (l.take k ++ x :: l.drop k) := by
  obtain ⟨hroot, hstep⟩ := h
  refine ⟨fun d hd => ?_, fun j d e hd he => ?_⟩
  · rw [getElem?_take_cons_drop hk] at hd
    by_cases h0 : 0 < k
    · exact hroot d (by simpa [h0] using hd)
    · have h0' : k = 0 := by omega
      subst h0'
      obtain rfl : x = d := by simpa using hd
      exact hhead rfl
  · rw [getElem?_take_cons_drop hk] at hd he
    rcases Nat.lt_trichotomy (j + 1) k with hj | hj | hj
    · rw [if_pos (by omega)] at hd
      rw [if_pos hj] at he
      exact hstep j d e hd he
    · rw [if_pos (by omega)] at hd
      rw [if_neg (by omega), if_pos hj] at he
      cases he
      exact hprev d (by omega) (by rw [← hj]; exact hd)
    · rw [if_neg (by omega), if_neg (by omega), Nat.add_sub_cancel] at he
      by_cases hjk : j = k
      · rw [if_neg (by omega), if_pos hjk] at hd
        cases hd
        exact hnext e (hjk ▸ he)
      · rw [if_neg (by omega), if_neg hjk] at hd
        exact hstep (j - 1) d e hd (by rw [Nat.sub_add_cancel (by omega)]; exact he)

/-- A run of devices removed, where what follows it is no deeper than its first device. -/
theorem PreOrder.remove {l : List Device} (h : PreOrder l) {k e : Nat} {x : Device} (hx : l[k]? = some x) (hke : k < e)
    (hnext : ∀ y, l[e]? = some y → y.depth.toNat ≤ x.depth.toNat) : PreOrder (l.take k ++ l.drop e) := by
  obtain ⟨hroot, hstep⟩ := h
  obtain ⟨hk, -⟩ := List.getElem?_eq_some_iff.1 hx
  refine ⟨fun d hd => ?_, fun j d y hd hy => ?_⟩
  · rw [getElem?_take_drop l hk.le] at hd
    by_cases h0 : 0 < k
    · exact hroot d (by simpa [h0] using hd)
    · have h0' : k = 0 := by omega
      subst h0'
      have hle := hnext d (by simpa using hd)
      rw [hroot x hx] at hle
      exact BitVec.eq_of_toNat_eq (Nat.le_zero.1 hle)
  · rw [getElem?_take_drop l hk.le] at hd hy
    rcases Nat.lt_trichotomy (j + 1) k with hj | hj | hj
    · rw [if_pos (by omega)] at hd
      rw [if_pos hj] at hy
      exact hstep j d y hd hy
    · rw [if_pos (by omega)] at hd
      rw [if_neg (by omega), hj, Nat.sub_self] at hy
      have := hnext y hy
      have := hstep j d x hd (hj ▸ hx)
      omega
    · rw [if_neg (by omega)] at hd hy
      exact hstep (e + (j - k)) d y hd (by rw [← hy]; congr 1; omega)

/-- The sub-chain's end is the first device from index `k` on that is no deeper than `d`, or the end (R341, R342). -/
theorem subchainEnd_spec (d k : Nat) (l : List Device) :
    k ≤ subchainEnd d k l ∧ subchainEnd d k l ≤ k + l.length ∧
      (∀ j x, k + j < subchainEnd d k l → l[j]? = some x → d < x.depth.toNat) ∧
      ∀ x, l[subchainEnd d k l - k]? = some x → x.depth.toNat ≤ d := by
  induction l generalizing k with
  | nil => simp [subchainEnd]
  | cons x xs ih =>
    unfold subchainEnd
    split
    · next hx =>
      refine ⟨le_rfl, by simp, fun j _ hj => absurd hj (by omega), fun y hy => ?_⟩
      obtain rfl : x = y := by simpa using hy
      exact hx
    · next hx =>
      obtain ⟨hlo, hhi, hin, hend⟩ := ih (k + 1)
      refine ⟨by omega, by simp only [List.length_cons]; omega, fun j y hj hy => ?_, fun y hy => ?_⟩
      · cases j with
        | zero =>
          obtain rfl : x = y := by simpa using hy
          omega
        | succ j => exact hin j y (by omega) (by simpa using hy)
      · refine hend y ?_
        rwa [show subchainEnd d (k + 1) xs - k = subchainEnd d (k + 1) xs - (k + 1) + 1 by omega,
          List.getElem?_cons_succ] at hy

/-- The sub-chain of the device at `p` reaches up to the next device that is no deeper than `d` (R341, R342). -/
theorem chainEnd_spec {dev : List Device} {p : Nat} (d : Nat) (hp : p < dev.length) :
    p < chainEnd dev p d ∧ chainEnd dev p d ≤ dev.length ∧
      (∀ j x, p < j → j < chainEnd dev p d → dev[j]? = some x → d < x.depth.toNat) ∧
      ∀ x, dev[chainEnd dev p d]? = some x → x.depth.toNat ≤ d := by
  obtain ⟨hlo, hhi, hin, hend⟩ := subchainEnd_spec d (p + 1) (dev.drop (p + 1))
  rw [List.length_drop] at hhi
  refine ⟨hlo, by unfold chainEnd; omega, fun j x hpj hj hx => ?_, fun x hx => ?_⟩
  · refine hin (j - (p + 1)) x (by unfold chainEnd at hj; omega) ?_
    rwa [List.getElem?_drop, show p + 1 + (j - (p + 1)) = j by omega]
  · refine hend x ?_
    rwa [List.getElem?_drop, Nat.add_sub_cancel' hlo]

/-- The device found by its tag (R343). -/
theorem findTag_some {tag : BitVec 16} {n k : Nat} {l : List Device} (h : findTag tag n l = some k) :
    n ≤ k ∧ ∃ d, l[k - n]? = some d := by
  induction l generalizing n with
  | nil => cases h
  | cons x xs ih =>
    unfold findTag at h
    split at h
    · cases h
      exact ⟨le_rfl, x, by simp⟩
    · obtain ⟨hn, d, hd⟩ := ih h
      exact ⟨by omega, d, by rwa [show k - n = k - (n + 1) + 1 by omega, List.getElem?_cons_succ]⟩

/-- A registry with room, a tag that is not 0, and a place for it in the pre-order (R341). -/
theorem CoreInv.insertDev {s : State} (h : CoreInv s) {k : Nat} {x : Device} (hfull : s.dev.length ≠ s.cfg.devMax)
    (htag : x.tag ≠ 0) (hk : k ≤ s.dev.length) (hhead : k = 0 → x.depth = 0)
    (hprev : ∀ d, 0 < k → s.dev[k - 1]? = some d → x.depth.toNat ≤ d.depth.toNat + 1)
    (hnext : ∀ e, s.dev[k]? = some e → e.depth.toNat ≤ x.depth.toNat + 1) : CoreInv (Machine.insertDev k x s) := by
  obtain ⟨hmax, htags, -⟩ := id h.dev
  refine { h with dev := ⟨?_, fun d hd => ?_, h.dev.preOrder.insert hk hhead hprev hnext⟩ }
  · have hlen : (Machine.insertDev k x s).dev.length = s.dev.length + 1 := by
      simp [Machine.insertDev]
      omega
    rw [hlen]
    exact Nat.lt_of_le_of_ne hmax hfull
  · simp only [Machine.insertDev, List.mem_append, List.mem_cons] at hd
    obtain hd | rfl | hd := hd
    · exact htags d (List.mem_of_mem_take hd)
    · exact htag
    · exact htags d (List.mem_of_mem_drop hd)

/-- A top-level device goes to the end (R341). -/
theorem CoreInv.insertTop {s : State} (h : CoreInv s) {x : Device} (hfull : s.dev.length ≠ s.cfg.devMax)
    (htag : x.tag ≠ 0) (hx : x.depth = 0) : CoreInv (Machine.insertDev s.dev.length x s) :=
  h.insertDev hfull htag le_rfl (fun _ => hx) (by simp [hx]) (by simp)

theorem valid_devMax {c : Cfg} (h : c.valid = true) : c.devMax ≤ 255 := by
  simp only [Cfg.valid, Bool.and_eq_true, decide_eq_true_eq] at h
  exact h.2

/-- A device below the one at `p` goes after the whole sub-chain, one level deeper (R341). -/
theorem CoreInv.insertBelow {s : State} (h : CoreInv s) {x d : Device} {p : Nat} (hfull : s.dev.length ≠ s.cfg.devMax)
    (htag : x.tag ≠ 0) (hd : s.dev[p]? = some d) (hx : x.depth = d.depth + 1) :
    CoreInv (Machine.insertDev (chainEnd s.dev p d.depth.toNat) x s) := by
  obtain ⟨hp, -⟩ := List.getElem?_eq_some_iff.1 hd
  obtain ⟨hlo, hhi, hin, hend⟩ := chainEnd_spec d.depth.toNat hp
  have hdepth : x.depth.toNat = d.depth.toNat + 1 := by
    have hle := h.dev.preOrder.depth_le hd
    have hmax := h.dev.1
    have h255 := valid_devMax h.cfg
    rw [hx, BitVec.toNat_add]
    exact Nat.mod_eq_of_lt (show d.depth.toNat + 1 < 256 by omega)
  refine h.insertDev hfull htag hhi (fun h0 => absurd h0 (by omega)) (fun y _ hy => ?_) fun y hy => ?_
  · rcases Nat.lt_or_ge p (chainEnd s.dev p d.depth.toNat - 1) with hj | hj
    · have := hin _ y hj (by omega) hy
      omega
    · rw [show chainEnd s.dev p d.depth.toNat - 1 = p by omega, hd] at hy
      cases hy
      omega
  · have := hend y hy
    omega

/-- A device goes with its whole sub-chain (R342). -/
theorem CoreInv.removeChain {s : State} (h : CoreInv s) {k : Nat} {d : Device} (hd : s.dev[k]? = some d) :
    CoreInv { s with dev := s.dev.take k ++ s.dev.drop (chainEnd s.dev k d.depth.toNat) } := by
  obtain ⟨hk, -⟩ := List.getElem?_eq_some_iff.1 hd
  obtain ⟨hlo, -, -, hend⟩ := chainEnd_spec d.depth.toNat hk
  obtain ⟨hmax, htags, -⟩ := id h.dev
  refine { h with dev := ⟨?_, fun x hx => ?_, h.dev.preOrder.remove hd hlo hend⟩ }
  · refine le_trans ?_ hmax
    simp only [List.length_append, List.length_take, List.length_drop]
    omega
  · obtain hx | hx := List.mem_append.1 hx
    · exact htags x (List.mem_of_mem_take hx)
    · exact htags x (List.mem_of_mem_drop hx)

end Sys2Proof.Machine

namespace Sys2Proof.Machine

/-! The notifications as one operation: every device is told, then the command goes on (R337 to R340). -/

/-- Every device is told, then what follows the last device (R337). -/
def tellDevices (n : Notice) (s : State) : State := if s.dev = [] then afterNotice n s else askDev 0 n s

/-- `ensure()` tells the devices of the frame boundary at frame-over (R196, R339). -/
theorem ensure_eq (c : Cmd) (s : State) :
    ensure c s = if frameOver s then tellDevices (.boundary c) s else afterEnsure c s := by
  unfold ensure tellDevices
  cases s.dev <;> rfl

/-- The registers and the table RESET writes (R52 to R54, R200). -/
def resetRegs (hard : Bool) (s : State) : State := if hard then remapHome (hardReset s) else softReset s

/-- RESET writes its registers and tells the devices, unless a write faulted (R200, R338). -/
theorem resetAfterCpu_eq (hard : Bool) (s : State) :
    resetAfterCpu hard s =
      if (resetRegs hard s).ctrl = .faulted then stopCmd (resetRegs hard s) else tellDevices .reset (resetRegs hard s) := by
  unfold resetAfterCpu tellDevices
  dsimp only
  rw [← resetRegs]
  cases (resetRegs hard s).dev <;> rfl

end Sys2Proof.Machine

namespace Sys2Proof.Machine

/-! The invariant in each place a command can stand: ended, inside a call of the CPU, inside a notification. -/

/-- The calls that carry bus words (R193, R202). -/
def CpuCall.Serves (c : CpuCall) : Prop := (∃ b, c = .step b) ∨ (∃ b, c = .nmi b)

/-- Outside those calls LAST_LOG_TS is at most TSC (R299). -/
theorem logClockInv_of_quiet {s : State} (hq : ∀ c, cpuCallOf s.pend = some c → ¬ c.Serves) :
    LogClockInv s ↔ s.LoggedBy s.tsc := by
  unfold LogClockInv State.LoggedBy
  cases hc : cpuCallOf s.pend with
  | none => simp
  | some c => cases c <;> simp_all [CpuCall.Serves]

/-- Inside them it is at most LAST_BUS_TS, and at most TSC before the first bus word (R299). -/
theorem logClockInv_of_serves {s : State} {c : CpuCall} (hc : cpuCallOf s.pend = some c) (hs : c.Serves) :
    LogClockInv s ↔ (s.ctrl ≠ .faulted →
      s.lastLogTs.toNat ≤ s.lastBusTs.toNat ∧ (s.busUsed = false → s.lastLogTs.toNat ≤ s.tsc.toNat)) := by
  unfold LogClockInv
  rw [hc]
  obtain ⟨b, rfl⟩ | ⟨b, rfl⟩ := hs <;> simp

theorem CoreInv.inv_idle {s : State} (h : CoreInv s) (hb : s.busy = false) (hp : s.pend = .idle)
    (hc : s.ctrl ≠ .faulted → s.ctrl = idleCtrl s) (hl : s.LoggedBy s.tsc) : Inv s :=
  { h with
    idle := ⟨by simp [hb, hp], fun _ => hc⟩
    clock := ⟨h.tsc, by simp [hp, cpuCallOf], by simp [hp]⟩
    pend := by simp [PendInv, hp]
    logClock := (logClockInv_of_quiet (by simp [hp, cpuCallOf])).2 hl }

/-- Inside a call of the CPU that carries no bus words. -/
theorem CoreInv.inv_quietCall {s : State} (h : CoreInv s) (hb : s.busy = true) {c : CpuCall} (hp : s.pend = .cpu c)
    (hq : ¬ c.Serves) (hblob : c = .check ∨ c = .restore → snapshotOk s.cfg (payloadBlob s.payload) = true)
    (hl : s.LoggedBy s.tsc) : Inv s :=
  { h with
    idle := ⟨by simp [hb, hp], by simp [hp]⟩
    clock := ⟨h.tsc, fun c' hc' hs => absurd hs (by rw [hp] at hc'; cases hc'; exact hq), by simp [hp]⟩
    pend := ⟨by simp [hp], by simpa [hp] using hblob, by simp [hp]⟩
    logClock := (logClockInv_of_quiet (by simpa [hp, cpuCallOf] using hq)).2 hl }

/-- Inside a notification of a device. -/
theorem CoreInv.inv_notify {s : State} (h : CoreInv s) (hb : s.busy = true) {k : Nat} {n : Notice} (hp : s.pend = .notify k n)
    (hnmi : ∀ b, n = .nmi b → s.InFrame)
    (hbound : ∀ c, n = .boundary c → s.cfg.n ≤ s.tsc.toNat ∧ cmdLegal s.cfg.variant c = true)
    (hl : s.LoggedBy s.tsc) : Inv s :=
  { h with
    idle := ⟨by simp [hb, hp], by simp [hp]⟩
    clock := ⟨h.tsc, by simp [hp, cpuCallOf], fun j b hj => hnmi b (by rw [hp] at hj; cases hj; rfl)⟩
    pend := ⟨by simp [hp], by simp [hp], fun j c hj => hbound c (by rw [hp] at hj; cases hj; rfl)⟩
    logClock := (logClockInv_of_quiet (by simp [hp, cpuCallOf])).2 hl }

/-- Inside a step or an NMI entry, or a device's `read` or `write` within one: the clock of the call (R165, R172, R194) and
the log's (R299). -/
structure ServingInv (c : CpuCall) (s : State) : Prop where
  core    : CoreInv s
  busy    : s.busy = true
  call    : cpuCallOf s.pend = some c
  serves  : c.Serves
  inFrame : s.tsc.toNat < s.cfg.n
  start   : s.stepStart = s.tsc
  busLow  : s.tsc.toNat ≤ s.lastBusTs.toNat
  busHigh : s.lastBusTs.toNat < 2 * s.cfg.n
  logged  : s.ctrl ≠ .faulted →
    s.lastLogTs.toNat ≤ s.lastBusTs.toNat ∧ (s.busUsed = false → s.lastLogTs.toNat ≤ s.tsc.toNat)

theorem ServingInv.inv {c : CpuCall} {s : State} (h : ServingInv c s) : Inv s := by
  obtain ⟨hcore, hb, hc, hs, hframe, hstart, hlow, hhigh, hlog⟩ := h
  have hne : s.pend ≠ .idle := by rintro hp; simp [hp, cpuCallOf] at hc
  refine { hcore with
    idle := ⟨by simp [hb, hne], fun hp => absurd hp hne⟩
    clock := ⟨hcore.tsc, fun _ _ _ => ⟨hframe, hstart, hlow, hhigh⟩, fun _ _ _ => hframe⟩
    pend := ⟨fun c' d w hp => ?_, fun hp => ?_, fun k n hp => ?_⟩
    logClock := (logClockInv_of_serves hc hs).2 hlog }
  · rw [hp] at hc
    cases hc
    exact hs
  · obtain hp | hp := hp <;> rw [hp] at hc <;> cases hc <;> obtain ⟨_, hs⟩ | ⟨_, hs⟩ := hs <;> cases hs
  · rw [hp] at hc
    cases hc

theorem Inv.serving {c : CpuCall} {s : State} (h : Inv s) (hc : cpuCallOf s.pend = some c) (hs : c.Serves) : ServingInv c s := by
  obtain ⟨hframe, hstart, hlow, hhigh⟩ := h.clock.2.1 c hc hs
  have hne : s.pend ≠ .idle := by rintro hp; simp [hp, cpuCallOf] at hc
  exact ⟨h.core, h.idle.1.2 hne, hc, hs, hframe, hstart, hlow, hhigh, (logClockInv_of_serves hc hs).1 h.logClock⟩

/-- Outside a step or an NMI entry the log is no later than TSC (R299). -/
theorem Inv.loggedBy_tsc {s : State} (h : Inv s) (hq : ∀ c, cpuCallOf s.pend = some c → ¬ c.Serves) : s.LoggedBy s.tsc :=
  (logClockInv_of_quiet hq).1 h.logClock

theorem Inv.busy_of_pend {s : State} (h : Inv s) (hp : s.pend ≠ .idle) : s.busy = true := h.idle.1.2 hp

theorem Inv.not_busy {s : State} (h : Inv s) (hp : s.pend = .idle) : s.busy = false := by
  cases hb : s.busy with
  | false => rfl
  | true => exact absurd hp (h.idle.1.1 hb)

/-- A fault raised while the command goes on keeps the invariant (R412). -/
theorem Inv.raise {s : State} (h : Inv s) (b : FaultBit) : Inv (raise b s) := by
  obtain ⟨hbusy, -⟩ := h.idle
  have hcore := h.core.raise b
  refine { hcore with
    idle := ⟨by simpa using hbusy, fun _ hc => absurd (raise_ctrl b s) hc⟩
    clock := by simpa [ClockInv] using h.clock
    pend := by simpa [PendInv] using h.pend
    logClock := fun hc => absurd (raise_ctrl b s) hc }

/-! The ends of a command (R27, R191, R412). -/

theorem CoreInv.inv_stopCmd {s : State} (h : CoreInv s) (hs : s.ctrl = .faulted) : Inv (stopCmd s) :=
  CoreInv.inv_idle h.keep rfl rfl (fun hc => absurd hs hc) fun hc => absurd hs hc

theorem CoreInv.inv_finish {s : State} (h : CoreInv s) (hl : s.LoggedBy s.tsc) (r : Result) (v : BitVec 64) :
    Inv (finish r v s) := by
  by_cases hs : s.ctrl = .faulted
  · exact CoreInv.inv_idle (h.keep (by simp [State.withCoreOf, finish, hs])) rfl rfl (by simp [hs])
      fun hc => absurd (by simp [hs]) hc
  · have hidle : idleCtrl s ≠ .faulted := by unfold idleCtrl; split <;> decide
    have hcore : CoreInv { s with ctrl := idleCtrl s } := h.setCtrl hs hidle
    exact CoreInv.inv_idle (hcore.keep (by simp [State.withCoreOf, finish, hs])) rfl rfl
      (fun _ => by rw [finish_ctrl, if_neg hs]; rfl) fun _ => hl hs

theorem CoreInv.inv_endCmd {s : State} (h : CoreInv s) (hl : s.LoggedBy s.tsc) (r : Result) (v : BitVec 64) :
    Inv (endCmd r v s) := by
  by_cases hs : s.ctrl = .faulted
  · rw [endCmd_of_faulted hs]
    exact h.inv_stopCmd hs
  · rw [endCmd_of_not hs]
    exact h.inv_finish hl r v

/-- A fault raised by a command's rule ends the command (R412). -/
theorem CoreInv.inv_endRaise {s : State} (h : CoreInv s) (b : FaultBit) (r : Result) (v : BitVec 64) :
    Inv (endCmd r v (Machine.raise b s)) :=
  (h.raise b).inv_endCmd (fun hf => absurd (raise_ctrl b s) hf) r v

/-- What `note` at TSC leaves ends its command in order. -/
theorem CoreInv.inv_endNote {s : State} (h : CoreInv s) (hl : s.LoggedBy s.tsc) (r : Result) (v : BitVec 64) :
    Inv (endCmd r v (Machine.note s.tsc s)) :=
  (h.note s.tsc).inv_endCmd (by rw [note_tsc]; exact hl.note) r v

/-! The commands, from where they are performed (R28, R196 to R202). -/

/-- A command is being performed: BUSY is set, no fault was raised, and the log is no later than TSC. -/
structure Performing (s : State) : Prop where
  core   : CoreInv s
  busy   : s.busy = true
  ctrl   : s.ctrl ≠ .faulted
  logged : s.lastLogTs.toNat ≤ s.tsc.toNat

theorem Performing.loggedBy {s : State} (h : Performing s) : s.LoggedBy s.tsc := fun _ => h.logged

theorem Performing.setCtrl {s : State} (h : Performing s) {c : CtrlState} (hc : c ≠ .faulted) :
    Performing { s with ctrl := c } :=
  ⟨h.core.setCtrl h.ctrl hc, h.busy, hc, h.logged⟩

/-- A write of the registers or of the table ends its command in order. -/
theorem Performing.inv_writeThenNote {s : State} (h : Performing s) {write : State → State} (hw : CoreInv (write s))
    (htsc : (write s).tsc = s.tsc) (hlog : (write s).lastLogTs = s.lastLogTs) : Inv (writeThenNote write s) := by
  have hl : (write s).LoggedBy (write s).tsc := fun _ => by rw [htsc, hlog]; exact h.logged
  unfold writeThenNote unlessFaulted
  split
  · exact hw.inv_endCmd hl _ _
  · exact hw.inv_endNote hl _ _

theorem Performing.inv_endCmd {s : State} (h : Performing s) (r : Result) (v : BitVec 64) : Inv (endCmd r v s) :=
  h.core.inv_endCmd h.loggedBy r v

theorem Performing.inv_beginStep {s : State} (h : Performing s) (hf : s.InFrame) (single dbg : Bool) :
    Inv (beginStep single dbg s) :=
  ServingInv.inv (c := .step single)
    ⟨h.core.keep, h.busy, rfl, .inl ⟨_, rfl⟩, hf, rfl, le_rfl, h.core.tsc, fun _ => ⟨h.logged, fun _ => h.logged⟩⟩

theorem Performing.inv_beginNmi {s : State} (h : Performing s) (hf : s.InFrame) (claimed : Bool) : Inv (beginNmi claimed s) :=
  ServingInv.inv (c := .nmi claimed)
    ⟨h.core.keep, h.busy, rfl, .inr ⟨_, rfl⟩, hf, rfl, le_rfl, h.core.tsc, fun _ => ⟨h.logged, fun _ => h.logged⟩⟩

theorem Performing.inv_askDev {s : State} (h : Performing s) (k : Nat) {n : Notice}
    (hnmi : ∀ b, n = .nmi b → s.InFrame)
    (hbound : ∀ c, n = .boundary c → s.cfg.n ≤ s.tsc.toNat ∧ cmdLegal s.cfg.variant c = true) : Inv (askDev k n s) :=
  CoreInv.inv_notify h.core.keep h.busy rfl hnmi hbound h.loggedBy

theorem Performing.inv_callCpu {s : State} (h : Performing s) {c : CpuCall} (hq : ¬ c.Serves)
    (hblob : c = .check ∨ c = .restore → snapshotOk s.cfg (payloadBlob s.payload) = true) (a : AgentCall) :
    Inv (callCpu c a s) :=
  CoreInv.inv_quietCall h.core.keep h.busy rfl hq hblob h.loggedBy

theorem Performing.inv_runFrameLoop {s : State} (h : Performing s) : Inv (runFrameLoop s) := by
  unfold runFrameLoop
  split
  · next hf => exact h.inv_beginStep hf _ _
  · exact h.inv_endCmd _ _

theorem Performing.inv_startNmi {s : State} (h : Performing s) (hf : s.InFrame) : Inv (startNmi s) := by
  unfold startNmi
  split
  · exact h.inv_beginNmi hf _
  · exact h.inv_askDev 0 (fun _ _ => hf) nofun

theorem Performing.inv_afterEnsure {s : State} (h : Performing s) (hf : s.InFrame) {c : Cmd}
    (hc : cmdLegal s.cfg.variant c = true) : Inv (afterEnsure c s) := by
  cases c with
  | ensureFrame => exact h.inv_endCmd _ _
  | runFrame => exact (h.setCtrl (c := .running) nofun).inv_runFrameLoop
  | step dbg => exact (h.setCtrl (c := .singleStepping) nofun).inv_beginStep hf _ _
  | reset hard =>
    exact (h.setCtrl (c := .resetting) nofun).inv_callCpu (c := .reset hard) (by simp [CpuCall.Serves]) (by simp) _
  | nmi => exact (h.setCtrl (c := .servicingNmi) nofun).inv_startNmi hf
  | mapPaged pool mask =>
    exact h.inv_writeThenNote (h.core.mapPagedWrite (of_decide_eq_true hc) pool mask) (by simp) (by simp)
  | mapRomBank slot bank => exact h.inv_writeThenNote (h.core.remap _ nofun) (by simp) (by simp)
  | mapRamBank slot bank => exact h.inv_writeThenNote (h.core.remap _ nofun) (by simp) (by simp)
  | wrreg reg value =>
    obtain ⟨r, hr⟩ := Option.isSome_iff_exists.1 hc
    have hafter : afterEnsure (.wrreg reg value) s = writeThenNote (writeReg r value) s := by
      simp [afterEnsure, wrregAfter, hr]
    rw [hafter]
    exact h.inv_writeThenNote (h.core.writeReg hr value) (by simp) (by simp)

/-- After the frame-boundary transition TSC is in the frame (R166). -/
theorem wrap_inFrame {s : State} (h : CoreInv s) (hover : s.cfg.n ≤ s.tsc.toNat) : (wrap s).InFrame := by
  have := h.tsc
  have hle := Nat.mod_le (s.tsc.toNat - s.cfg.n) (2 ^ 32)
  simp only [State.InFrame, wrap_tsc, wrap_cfg, BitVec.toNat_ofNat]
  omega

theorem Performing.wrap {s : State} (h : Performing s) : Performing (wrap s) := by
  have htsc : (BitVec.ofNat 32 (s.tsc.toNat - s.cfg.n)).toNat < 2 * s.cfg.n :=
    (Nat.mod_le _ _).trans_lt ((Nat.sub_le _ _).trans_lt h.core.tsc)
  have hcore : CoreInv { s with tsc := BitVec.ofNat 32 (s.tsc.toNat - s.cfg.n), frames := s.frames + 1 } :=
    { h.core with tsc := htsc }
  exact ⟨hcore.logRestart, h.busy, h.ctrl, Nat.zero_le _⟩

theorem Performing.inv_afterNotice {s : State} (h : Performing s) {n : Notice} (hnmi : ∀ b, n = .nmi b → s.InFrame)
    (hbound : ∀ c, n = .boundary c → s.cfg.n ≤ s.tsc.toNat ∧ cmdLegal s.cfg.variant c = true) : Inv (afterNotice n s) := by
  cases n with
  | boundary c =>
    obtain ⟨hover, hc⟩ := hbound c rfl
    exact h.wrap.inv_afterEnsure (wrap_inFrame h.core hover) hc
  | reset => exact h.core.inv_endNote h.loggedBy _ _
  | nmi b => exact h.inv_beginNmi (hnmi b rfl) b

theorem Performing.inv_tellDevices {s : State} (h : Performing s) {n : Notice} (hnmi : ∀ b, n = .nmi b → s.InFrame)
    (hbound : ∀ c, n = .boundary c → s.cfg.n ≤ s.tsc.toNat ∧ cmdLegal s.cfg.variant c = true) : Inv (tellDevices n s) := by
  unfold tellDevices
  split
  · exact h.inv_afterNotice hnmi hbound
  · exact h.inv_askDev 0 hnmi hbound

theorem Performing.inv_ensure {s : State} (h : Performing s) {c : Cmd} (hc : cmdLegal s.cfg.variant c = true) :
    Inv (ensure c s) := by
  rw [ensure_eq]
  split
  · next hover => exact h.inv_tellDevices nofun fun _ hc' => by cases hc'; exact ⟨of_decide_eq_true hover, hc⟩
  · next hover => exact h.inv_afterEnsure (Nat.lt_of_not_le fun hn => hover (decide_eq_true hn)) hc

end Sys2Proof.Machine

namespace Sys2Proof.Machine

/-! What an operation's meaning is, by the shape of its rule (R110, R191, R196). -/

/-- What a host command that begins with `ensure()` does after it; none for the other operations. -/
def ensuredCmd : Instr → Option Cmd
  | .runFrame => some .runFrame
  | .ensureFrame => some .ensureFrame
  | .step dbg => some (.step dbg)
  | .reset hard => some (.reset hard)
  | .nmi => some .nmi
  | .mapPaged pool mask => some (.mapPaged pool mask)
  | .mapRomBank slot bank => some (.mapRomBank slot bank)
  | .mapRamBank slot bank => some (.mapRamBank slot bank)
  | .wrreg reg value => some (.wrreg reg value)
  | _ => none

/-- A command that begins with `ensure()` is accepted where its variant has it (R114, R191, R196). -/
theorem exec_of_ensuredCmd {i : Instr} {c : Cmd} (h : ensuredCmd i = some c) (s : State) :
    exec i s = hostCommand (cmdLegal s.cfg.variant c) (fun s => settleAll (ensure c s)) s := by
  cases i <;> cases h <;> rfl

theorem channel_of_ensuredCmd {i : Instr} {c : Cmd} (h : ensuredCmd i = some c) : i.channel = .host := by
  cases i <;> cases h <;> rfl

/-- A bus word's meaning is its cycle, inside a call of the CPU (R110). -/
theorem exec_of_bus {i : Instr} (h : i.channel = .bus) (s : State) : exec i s = onBus (serveBus i) s := by
  cases i <;> cases h <;> rfl

theorem onBus_eq_next {f : State → State} {s t : State} (h : onBus f s = .next t) : t = f s := by
  obtain ⟨-, ho⟩ | ⟨-, ho⟩ := onBus_cases f s <;> rw [ho] at h <;> cases h
  rfl

/-- A proof about every operation: the commands that begin with `ensure()`, the other commands of the host, the bus words. -/
theorem instr_byRule {motive : Instr → Prop} (ensured : ∀ i c, ensuredCmd i = some c → motive i)
    (rdreg : ∀ reg idx, motive (.rdreg reg idx)) (attach : ∀ parent tag, motive (.attach parent tag))
    (detach : ∀ tag, motive (.detach tag)) (find : ∀ tag, motive (.find tag)) (save : motive .save)
    (restore : motive .restore) (swapVariant : ∀ variant, motive (.swapVariant variant))
    (bus : ∀ i, i.channel = .bus → motive i) (i : Instr) : motive i := by
  cases hc : ensuredCmd i with
  | some c => exact ensured i c hc
  | none =>
    cases i with
    | rdreg reg idx => exact rdreg reg idx
    | attach parent tag => exact attach parent tag
    | detach tag => exact detach tag
    | find tag => exact find tag
    | save => exact save
    | restore => exact restore
    | swapVariant variant => exact swapVariant variant
    | fetch a ts => exact bus _ rfl
    | memRead a ts => exact bus _ rfl
    | memWrite v a ts => exact bus _ rfl
    | ioRead p ts => exact bus _ rfl
    | ioWrite v p ts => exact bus _ rfl
    | contend a ts => exact bus _ rfl
    | intSample ts => exact bus _ rfl
    | intAck a ts => exact bus _ rfl
    | _ => cases hc

end Sys2Proof.Machine

namespace Sys2Proof.Machine

/-- N is below 2^31, so a sum of two times within it fits TSC (R10). -/
theorem valid_n_lt {c : Cfg} (h : c.valid = true) : c.n < 2 ^ 31 := by
  simp only [Cfg.valid, Bool.and_eq_true, decide_eq_true_eq] at h
  obtain ⟨⟨⟨⟨⟨⟨⟨⟨⟨⟨-, hn⟩, -⟩, -⟩, -⟩, -⟩, -⟩, -⟩, -⟩, -⟩, -⟩ := h
  exact hn

/-! The bus cycles keep the invariant (R194, R261 to R264, R352, R353). -/

theorem ServingInv.raise {c : CpuCall} {s : State} (h : ServingInv c s) (b : FaultBit) : ServingInv c (raise b s) := by
  obtain ⟨hcore, hb, hc, hs, hframe, hstart, hlow, hhigh, -⟩ := h
  exact ⟨hcore.raise b, by simpa using hb, by simpa using hc, hs, by simpa using hframe, by simpa using hstart,
    by simpa using hlow, by simpa using hhigh, fun hf => absurd (raise_ctrl b s) hf⟩

/-- A change of what the invariant does not read. -/
theorem ServingInv.keep {c : CpuCall} {s t : State} (h : ServingInv c s) (he : t.withInvOf s = t := by rfl) :
    ServingInv c t := by
  have hcall : cpuCallOf t.pend = some c := by rw [← he]; exact h.call
  exact (h.inv.keep he).serving hcall h.serves

theorem ServingInv.busFault {c : CpuCall} {s : State} (h : ServingInv c s) (b : FaultBit) : ServingInv c (busFault b s) :=
  ServingInv.raise (h.keep (t := { s with busReply := BusReply.zero })) b

theorem ServingInv.atBus {c : CpuCall} {s : State} (h : ServingInv c s) {ts : Stamp} (ht : s.StampOk ts) :
    ServingInv c (s.atBus ts) :=
  ⟨h.core.keep, h.busy, h.call, h.serves, h.inFrame, h.start, h.busLow.trans ht.1, ht.2,
    fun hf => ⟨(h.logged hf).1.trans ht.1, nofun⟩⟩

theorem ServingInv.withWait {c : CpuCall} {s : State} (h : ServingInv c s) (wait : Option (BitVec 32))
    {f : BitVec 32 → State → State} (hf : ∀ w, ServingInv c (f w s)) : ServingInv c (withWait wait f s) := by
  obtain ⟨w, -, he⟩ | ⟨-, he⟩ := withWait_cases wait f s
  · rw [he]; exact hf w
  · rw [he]; exact h.busFault _

theorem ServingInv.answerMem {c : CpuCall} {s : State} (h : ServingInv c s) (wait : Option (BitVec 32)) (v : Byte) :
    ServingInv c (answerMem wait v s) := h.withWait wait fun _ => h.keep

theorem ServingInv.memRead {c : CpuCall} {s : State} (h : ServingInv c s) (a : Addr) : ServingInv c (memRead a s).2 := by
  unfold Machine.memRead
  dsimp only
  split
  · exact h
  · exact h
  · split
    · exact h
    · exact h.keep
  · exact h.keep

theorem memWrite_frame (a : Addr) (v : Byte) (s : State) :
    memWrite a v s = { s with ram := (memWrite a v s).ram } := by
  unfold memWrite
  dsimp only
  split <;> rfl

theorem ServingInv.memWrite {c : CpuCall} {s : State} (h : ServingInv c s) (a : Addr) (v : Byte) :
    ServingInv c (memWrite a v s) := by
  have hcore := h.core.memWrite a v
  rw [memWrite_frame] at hcore ⊢
  exact ⟨hcore, h.busy, h.call, h.serves, h.inFrame, h.start, h.busLow, h.busHigh, h.logged⟩

/-- A port write's registers and its `note` at the cycle's timestamp (R345). -/
theorem ServingInv.chipsetWrite {c : CpuCall} {s : State} (h : ServingInv c s) (hs : s.ctrl ≠ .faulted)
    (hused : s.busUsed = true) (p : Addr) (v : Byte) : ServingInv c (chipsetWrite p v s.lastBusTs s) := by
  have hlog : (Machine.chipsetWrite p v s.lastBusTs s).lastLogTs.toNat ≤ s.lastBusTs.toNat := by
    refine chipsetWrite_induct (fun t => t.lastLogTs.toNat ≤ s.lastBusTs.toNat) p v s.lastBusTs s (h.logged hs).1
      (fun r t ht => by rwa [writeIfMatches_lastLogTs]) fun t _ ht => ?_
    obtain he | he := note_lastLogTs_cases s.lastBusTs t
    · rwa [he]
    · rw [he]
  exact ⟨h.core.chipsetWrite p v _, by simpa using h.busy, by simpa using h.call, h.serves, by simpa using h.inFrame,
    by simpa using h.start, by simpa using h.busLow, by simpa using h.busHigh,
    fun _ => ⟨by simpa using hlog, by simp [hused]⟩⟩

theorem ServingInv.answerWrite {c : CpuCall} {s : State} (h : ServingInv c s) (w : BitVec 32) :
    ServingInv c (answerWrite w s) := by
  unfold Machine.answerWrite
  split <;> exact h.keep

/-- A device called for I/O leaves the call that called it, whatever it does (R331, R354). -/
theorem ServingInv.ioEvent {c : CpuCall} {s : State} {c' : CpuCall} {d : Dir} {w : BitVec 32} (h : ServingInv c s)
    (hp : s.pend = .io c' d w) (e : DevEvent) : ServingInv c (ioEvent c' d w e s) := by
  have hc : c' = c := by
    have := h.call
    rw [hp] at this
    exact Option.some.inj this
  subst hc
  cases e with
  | command w' => exact h.raise _
  | ret data claim =>
    have hback : ServingInv c' { s with pend := .cpu c' } :=
      ⟨h.core.keep, h.busy, rfl, h.serves, h.inFrame, h.start, h.busLow, h.busHigh, h.logged⟩
    unfold Machine.ioEvent
    dsimp only
    split
    · exact hback.keep
    · split <;> exact hback.keep

theorem ServingInv.settleIoAll {c : CpuCall} {s : State} (h : ServingInv c s) : ServingInv c (settleIoAll s) :=
  settleIo_keeps (ServingInv c) (fun t c' d w e es hp _ ht =>
    ServingInv.ioEvent (s := { t with devIn := es }) ht.keep hp e) _ _ h

theorem ServingInv.askIo {c : CpuCall} {s : State} (h : ServingInv c s) (d : Dir) (w : BitVec 32) (k id : Nat) (op : DevOp) :
    ServingInv c (askIo c d w k id op s) :=
  ⟨h.core.keep, h.busy, rfl, h.serves, h.inFrame, h.start, h.busLow, h.busHigh, h.logged⟩

theorem ServingInv.portRead {c : CpuCall} {s : State} (h : ServingInv c s) (p : Addr) (ts : Stamp) (w : BitVec 32) :
    ServingInv c (portRead c p ts w s) := by
  unfold Machine.portRead
  split
  · next r _ => cases r <;> exact h.keep
  · split
    · exact (h.askIo ..).settleIoAll
    · exact h.keep

theorem ServingInv.portWrite {c : CpuCall} {s : State} (h : ServingInv c s) (hs : s.ctrl ≠ .faulted)
    (hused : s.busUsed = true) (p : Addr) (v : Byte) (w : BitVec 32) : ServingInv c (portWrite c p v s.lastBusTs w s) := by
  unfold Machine.portWrite
  split
  · exact (h.chipsetWrite hs hused p v).answerWrite w
  · split
    · exact (h.askIo ..).settleIoAll
    · exact h.keep

theorem Inv.useBus {s : State} (h : Inv s) : Inv { s with busUsed := true } := by
  refine { h with logClock := fun hf => ?_ }
  have hl := h.logClock hf
  dsimp only at hl ⊢
  split
  · next hs =>
    rw [if_pos hs] at hl
    exact ⟨hl.1, nofun⟩
  · next hs => rwa [if_neg hs] at hl

theorem Inv.busFault {s : State} (h : Inv s) (b : FaultBit) : Inv (busFault b s) :=
  Inv.raise (s := { s with busReply := BusReply.zero }) h.keep b

/-- A bus word keeps the invariant if the cycle it asks for does (R194, R412). -/
theorem Inv.busCycle {s : State} (h : Inv s) (ts : Stamp) {f : CpuCall → State → State}
    (hf : ∀ c, s.ctrl ≠ .faulted → ServingInv c (s.atBus ts) → ServingInv c (f c (s.atBus ts))) :
    Inv (busCycle ts f s) := by
  obtain ⟨-, he⟩ | ⟨-, he⟩ | ⟨-, he⟩ | ⟨hserving, ht, c, hp, hs, he⟩ := busCycle_cases ts f s
  · rw [he]; exact h.keep
  · rw [he]; exact h.useBus.busFault _
  · rw [he]; exact h.busFault _
  · rw [he]
    exact (hf c hserving.1 ((h.serving (by rw [hp]; rfl) hs).atBus ht)).inv

section
variable {s : State} (h : Inv s)
include h

theorem Inv.serveFetch (a : Addr) (ts : Stamp) : Inv (serveFetch a ts s) :=
  h.busCycle ts fun _ _ hc => (hc.memRead a).answerMem _ _

theorem Inv.serveMemRead (a : Addr) (ts : Stamp) : Inv (serveMemRead a ts s) :=
  h.busCycle ts fun _ _ hc => (hc.memRead a).answerMem _ _

theorem Inv.serveMemWrite (v : Byte) (a : Addr) (ts : Stamp) : Inv (serveMemWrite v a ts s) :=
  h.busCycle ts fun _ _ hc => (hc.memWrite a v).answerMem _ _

theorem Inv.serveIoRead (p : Addr) (ts : Stamp) : Inv (serveIoRead p ts s) :=
  h.busCycle ts fun _ _ hc => hc.withWait _ fun w => hc.portRead p ts w

theorem Inv.serveIoWrite (v : Byte) (p : Addr) (ts : Stamp) : Inv (serveIoWrite v p ts s) :=
  h.busCycle ts fun _ hs hc => hc.withWait _ fun w => hc.portWrite hs rfl p v w

theorem Inv.serveContend (a : Addr) (ts : Stamp) : Inv (serveContend a ts s) :=
  h.busCycle ts fun _ _ hc => hc.answerMem _ _

theorem Inv.serveIntSample (ts : Stamp) : Inv (serveIntSample ts s) := h.busCycle ts fun _ _ hc => hc.keep

theorem Inv.serveIntAck (ts : Stamp) : Inv (serveIntAck ts s) := h.busCycle ts fun _ _ hc => hc.keep

theorem Inv.serveBus (i : Instr) : Inv (serveBus i s) := by
  cases i with
  | fetch a ts => exact h.serveFetch a ts
  | memRead a ts => exact h.serveMemRead a ts
  | memWrite v a ts => exact h.serveMemWrite v a ts
  | ioRead p ts => exact h.serveIoRead p ts
  | ioWrite v p ts => exact h.serveIoWrite v p ts
  | contend a ts => exact h.serveContend a ts
  | intSample ts => exact h.serveIntSample ts
  | intAck a ts => exact h.serveIntAck ts
  | _ => exact h

end

/-! The agents' answers keep the invariant (R192 to R202, R338 to R340, R378 to R381). -/

/-- What a step or an NMI entry commits: TSC moves by CYCLES, past the log's last timestamp (R164, R192). -/
theorem ServingInv.commitStep {c : CpuCall} {s : State} (h : ServingInv c s) (cycles : BitVec 32) :
    CoreInv (commitStep cycles s) ∧ (commitStep cycles s).LoggedBy (commitStep cycles s).tsc := by
  have hraise : ∀ b, CoreInv (Machine.raise b s) ∧ (Machine.raise b s).LoggedBy (Machine.raise b s).tsc := fun b =>
    ⟨h.core.raise b, fun hf => absurd (raise_ctrl b s) hf⟩
  unfold Machine.commitStep
  split
  · exact hraise _
  · next hbus =>
    obtain ⟨-, he⟩ | ⟨-, -, he⟩ | ⟨-, -, -, he⟩ | ⟨-, hn, -, he⟩ := accumulate_cases cycles s
    · rw [he]; exact hraise _
    · rw [he]; exact hraise _
    · rw [he]; exact hraise _
    · rw [he]
      have hlt : s.cfg.n < 2 ^ 31 := valid_n_lt h.core.cfg
      have hframe := h.inFrame
      have htsc : (BitVec.ofNat 32 (s.tsc.toNat + cycles.toNat)).toNat = s.tsc.toNat + cycles.toNat :=
        Nat.mod_eq_of_lt (by omega)
      rw [h.start] at hbus
      refine ⟨{ h.core with tsc := ?_ }, fun hf => ?_⟩
      · rw [htsc]
        show s.tsc.toNat + cycles.toNat < 2 * s.cfg.n
        omega
      · rw [htsc]
        have := (h.logged hf).1
        show s.lastLogTs.toNat ≤ s.tsc.toNat + cycles.toNat
        omega

theorem ServingInv.stepReturn {single : Bool} {s : State} (h : ServingInv (.step single) s) (r : CpuReply) :
    Inv (stepReturn single r s) := by
  have hend : ∀ t : State, CoreInv t → t.LoggedBy t.tsc → t.busy = true →
      Inv (if t.ctrl = .faulted then stopCmd t
        else if single then endCmd (outcomeResult r.outcome) 0 t else runFrameLoop t) := by
    intro t hcore hl hb
    split
    · next hf => exact hcore.inv_stopCmd hf
    · next hf =>
      split
      · exact hcore.inv_endCmd hl _ _
      · exact Performing.inv_runFrameLoop ⟨hcore, hb, hf, hl hf⟩
  unfold Machine.stepReturn
  split
  · exact hend _ (h.core.raise _) (fun hf => absurd (raise_ctrl _ s) hf) (by simpa using h.busy)
  · obtain ⟨hcore, hl⟩ := h.commitStep r.cycles
    exact hend _ hcore hl (by simpa using h.busy)

theorem ServingInv.nmiReturn {c : CpuCall} {s : State} (h : ServingInv c s) (claimed : Bool) (r : CpuReply) :
    Inv (nmiReturn claimed r s) := by
  have hs : ServingInv c { s with nmiClaimed := claimed, nmiAccepted := r.accepted } := h.keep
  unfold Machine.nmiReturn
  dsimp only
  split
  · next hf => exact hs.core.inv_stopCmd hf
  · split
    · exact hs.core.inv_endRaise _ _ _
    · split
      · obtain ⟨hcore, hl⟩ := hs.commitStep r.cycles
        exact hcore.inv_endCmd hl _ _
      · split
        · exact hs.core.inv_endRaise _ _ _
        · next hno =>
          have hunused : s.busUsed = false := by
            cases hu : s.busUsed with
            | false => rfl
            | true => exact absurd (.inr hu) hno
          exact hs.core.inv_endCmd (fun hf => (h.logged hf).2 hunused) _ _

/-- RESET once the CPU returned (R200). -/
theorem Performing.inv_resetAfterCpu {s : State} (h : Performing s) (hard : Bool) : Inv (resetAfterCpu hard s) := by
  have hregs : CoreInv (resetRegs hard s) ∧ (resetRegs hard s).busy = true ∧
      (resetRegs hard s).lastLogTs.toNat ≤ (resetRegs hard s).tsc.toNat := by
    cases hard with
    | true =>
      exact ⟨h.core.hardReset.remapHome h.ctrl, by simpa [resetRegs] using h.busy, by simpa [resetRegs] using h.logged⟩
    | false => exact ⟨h.core.softReset, h.busy, h.logged⟩
  obtain ⟨hcore, hb, hl⟩ := hregs
  rw [resetAfterCpu_eq]
  split
  · next hf => exact hcore.inv_stopCmd hf
  · next hf => exact Performing.inv_tellDevices ⟨hcore, hb, hf, hl⟩ nofun nofun

theorem Performing.inv_checkReturn {s : State} (h : Performing s) (accepted : Bool)
    (hblob : snapshotOk s.cfg (payloadBlob s.payload) = true) : Inv (checkReturn accepted s) := by
  unfold checkReturn
  split
  · exact h.inv_callCpu (c := .restore) (by simp [CpuCall.Serves]) (fun _ => hblob) _
  · exact h.inv_endCmd _ _

theorem Performing.inv_applyRestore {s : State} (h : Performing s)
    (hblob : snapshotOk s.cfg (payloadBlob s.payload) = true) : Inv (applyRestore s) :=
  (h.core.loadSnapshot hblob).logRestart.inv_finish (fun _ => Nat.zero_le _) _ _

theorem Performing.inv_saveReturn {s : State} (h : Performing s) (cpu : List Byte) : Inv (saveReturn cpu s) := by
  obtain ⟨-, he⟩ | ⟨-, he⟩ := saveReturn_cases cpu s
  · rw [he]
    exact CoreInv.inv_endCmd (s := { s with blob := snapshot s cpu }) h.core.keep h.loggedBy _ _
  · rw [he]
    exact h.core.inv_endRaise _ _ _

/-- Inside a call outside FAULTED, with the log no later than TSC, the command goes on as it began. -/
theorem Inv.performing {s : State} (h : Inv s) (hp : s.pend ≠ .idle) (hf : s.ctrl ≠ .faulted)
    (hq : ∀ c, cpuCallOf s.pend = some c → ¬ c.Serves) : Performing s :=
  ⟨h.core, h.busy_of_pend hp, hf, h.loggedBy_tsc hq hf⟩

theorem Inv.cpuReturn {s : State} (h : Inv s) {c : CpuCall} (hp : s.pend = .cpu c) (r : CpuReply) : Inv (cpuReturn c r s) := by
  have hcall : cpuCallOf s.pend = some c := by rw [hp]; rfl
  have hquiet : ¬ c.Serves → s.ctrl ≠ .faulted → Performing s := fun hq hf =>
    h.performing (by simp [hp]) hf fun c' hc' => by rw [hcall] at hc'; cases hc'; exact hq
  have hstop : ∀ u, (s.ctrl ≠ .faulted → Inv u) → Inv (if s.ctrl = .faulted then stopCmd s else u) := by
    intro u hu
    split
    · next hf => exact h.core.inv_stopCmd hf
    · next hf => exact hu hf
  cases c with
  | nmi claimed => exact (h.serving hcall (.inr ⟨_, rfl⟩)).nmiReturn claimed r
  | step single => exact hstop _ fun _ => (h.serving hcall (.inl ⟨_, rfl⟩)).stepReturn r
  | reset hard => exact hstop _ fun hf => (hquiet (by simp [CpuCall.Serves]) hf).inv_resetAfterCpu hard
  | save => exact hstop _ fun hf => (hquiet (by simp [CpuCall.Serves]) hf).inv_saveReturn _
  | check => exact hstop _ fun hf => (hquiet (by simp [CpuCall.Serves]) hf).inv_checkReturn _ (h.pend.2.1 (.inl hp))
  | restore => exact hstop _ fun hf => (hquiet (by simp [CpuCall.Serves]) hf).inv_applyRestore (h.pend.2.1 (.inr hp))

theorem Inv.cpuEvent {s : State} (h : Inv s) {c : CpuCall} (hp : s.pend = .cpu c) (e : CpuEvent) : Inv (cpuEvent c e s) := by
  cases e with
  | command w => exact h.raise _
  | ret r => exact h.cpuReturn hp r
  | bus w =>
    unfold Machine.cpuEvent
    dsimp only
    split
    · exact h.serveBus _
    · exact h.busFault _

theorem Inv.noticeEvent {s : State} (h : Inv s) {k : Nat} {n : Notice} (hp : s.pend = .notify k n) (e : DevEvent) :
    Inv (noticeEvent k n e s) := by
  cases e with
  | command w => exact h.raise _
  | ret data claim =>
    have hnmi : ∀ b, noticeWith claim n = .nmi b → s.InFrame := by
      intro b hb
      cases n with
      | nmi b' => exact h.clock.2.2 k b' hp
      | boundary c => cases hb
      | reset => cases hb
    have hbound : ∀ c, noticeWith claim n = .boundary c → s.cfg.n ≤ s.tsc.toNat ∧ cmdLegal s.cfg.variant c = true := by
      intro c hc
      cases n with
      | boundary c' => cases hc; exact h.pend.2.2 k _ hp
      | nmi b => cases hc
      | reset => cases hc
    unfold Machine.noticeEvent
    dsimp only
    split
    · next hf => exact h.core.inv_stopCmd hf
    · next hf =>
      have hperf : Performing s := h.performing (by simp [hp]) hf (by simp [hp, cpuCallOf])
      split
      · exact hperf.inv_askDev _ hnmi hbound
      · exact hperf.inv_afterNotice hnmi hbound

theorem Inv.micro {s t : State} (hm : micro s = some t) (h : Inv s) : Inv t := by
  obtain ⟨c, e, es, hp, -, rfl⟩ | ⟨c, d, w, e, es, hp, -, rfl⟩ | ⟨k, n, e, es, hp, -, rfl⟩ := micro_cases hm
  · exact Inv.cpuEvent (s := { s with cpuIn := es }) h.keep hp e
  · have hs : ServingInv c { s with devIn := es } :=
      (Inv.keep (t := { s with devIn := es }) h).serving (by rw [hp]; rfl) (h.pend.1 c d w hp)
    exact (hs.ioEvent hp e).inv
  · exact Inv.noticeEvent (s := { s with devIn := es }) h.keep hp e

theorem Inv.settleAll {s : State} (h : Inv s) : Inv (settleAll s) := settleAll_keeps Inv (fun _ _ => Inv.micro) s h

/-! The host's commands keep the invariant (R191, R341, R342, R371, R378 to R386). -/

/-- A command of the host keeps the invariant if its rule does, where it is performed (R191). -/
theorem Inv.accept {s : State} (h : Inv s) (hp : s.pend = .idle) {legal : Bool} {f : State → State}
    (hf : legal = true → Performing s.performing → Inv (f s.performing)) : Inv (accept legal f s) := by
  obtain ⟨hb, -⟩ | ⟨-, -, he⟩ | ⟨-, -, he⟩ | ⟨hr, hl, he⟩ := accept_cases legal f s
  · exact absurd (hb.symm.trans (h.not_busy hp)) (by decide)
  · rw [he]; exact h.keep
  · rw [he]; exact h.keep
  · rw [he]
    exact hf hl ⟨h.core.keep, rfl, hr.2, h.loggedBy_tsc (by simp [hp, cpuCallOf]) hr.2⟩

theorem Performing.inv_restoreRule {s : State} (h : Performing s) : Inv (restoreRule s) := by
  unfold restoreRule
  dsimp only
  split
  · next hb => exact h.inv_callCpu (c := .check) (by simp [CpuCall.Serves]) (fun _ => hb) _
  · exact h.inv_endCmd _ _

theorem swapTarget_valid {tag : BitVec 8} {p : Payload} {c : Cfg} (h : swapTarget tag p = some c) : c.valid = true := by
  obtain ⟨-, hc⟩ := Option.filter_eq_some_iff.1 h
  simp only [Bool.and_eq_true] at hc
  exact hc.2

/-- The state after a swap is a power-on state with RAM of its record (R383, R384). -/
theorem swapped_core {c : Cfg} (hv : c.valid = true) (s : State) : CoreInv (swapped c s) :=
  { (powerOnInv c hv).core with ram := ⟨ramOfFn_wf _ _, fun _ hp => lt_of_mem_ramOfFn hp⟩ }

theorem Performing.inv_swapRule {s : State} (h : Performing s) (tag : BitVec 8) : Inv (swapRule tag s) := by
  unfold swapRule
  split
  · exact h.core.inv_endRaise _ _ _
  · next c hc => exact (swapped_core (swapTarget_valid hc) s).logRestart.inv_finish (fun _ => Nat.zero_le _) _ _

theorem Performing.inv_attachRule {s : State} (h : Performing s) (parent : BitVec 8) {tag : BitVec 16} (ht : tag ≠ 0) :
    Inv (attachRule parent tag s) := by
  unfold attachRule
  split
  · exact h.core.inv_endRaise _ _ _
  · next hfull =>
    split
    · exact (h.core.insertTop hfull ht rfl).inv_finish h.loggedBy _ _
    · split
      · exact h.core.inv_endRaise _ _ _
      · next d hd => exact (h.core.insertBelow hfull ht hd rfl).inv_finish h.loggedBy _ _

theorem Performing.inv_finish {s : State} (h : Performing s) (r : Result) (v : BitVec 64) : Inv (finish r v s) :=
  h.core.inv_finish h.loggedBy r v

theorem Performing.inv_detachRule {s : State} (h : Performing s) (tag : BitVec 16) : Inv (detachRule tag s) := by
  unfold detachRule
  split
  · exact h.inv_finish _ _
  · next k hk =>
    obtain ⟨-, d, hd⟩ := findTag_some hk
    rw [Nat.sub_zero] at hd
    simp only [hd, Option.map_some, Option.getD_some]
    exact (h.core.removeChain hd).inv_finish h.loggedBy _ _

theorem Performing.inv_findRule {s : State} (h : Performing s) (tag : BitVec 16) : Inv (findRule tag s) := by
  unfold findRule
  split <;> exact h.inv_finish _ _

theorem Inv.execRdreg {s : State} (h : Inv s) (hp : s.pend = .idle) (reg : BitVec 8) (idx : BitVec 16) {t : State}
    (he : execRdreg reg idx s = .next t) : Inv t := by
  have hkeep : ∀ legal (f : State → State), Inv (f s) → Inv (acceptRead legal f s) := by
    intro legal f hf
    obtain ⟨hb, -⟩ | ⟨-, -, he⟩ | ⟨-, -, he⟩ := acceptRead_cases legal f s
    · exact absurd (hb.symm.trans (h.not_busy hp)) (by decide)
    · rw [he]; exact h.keep
    · rwa [he]
  unfold Machine.execRdreg at he
  split at he
  · next bits n _ =>
    cases he
    refine hkeep _ _ ?_
    obtain ⟨-, hr⟩ | ⟨-, hr⟩ := replyReg_cases bits n s
    · rw [hr]
      exact h.core.inv_finish (h.loggedBy_tsc (by simp [hp, cpuCallOf])) _ _
    · rw [hr]
      exact CoreInv.inv_stopCmd (s := refuseFaulted (Machine.raise .config s)) (h.core.raise _).keep (raise_ctrl _ s)
  · cases he
    exact hkeep _ _ h

/-- Every operation the machine runs keeps the invariant: a host command with no call outstanding, a bus word at any time. -/
theorem Inv.exec {s t : State} (h : Inv s) {i : Instr} (hp : i.channel = .host → s.pend = .idle) (he : exec i s = .next t) :
    Inv t := by
  induction i using instr_byRule with
  | ensured i c hc =>
    rw [exec_of_ensuredCmd hc] at he
    cases he
    exact h.accept (hp (channel_of_ensuredCmd hc)) fun hl hs => (hs.inv_ensure hl).settleAll
  | rdreg reg idx => exact h.execRdreg (hp rfl) reg idx he
  | attach parent tag => cases he; exact h.accept (hp rfl) fun hl hs => hs.inv_attachRule parent (by simpa using hl)
  | detach tag => cases he; exact h.accept (hp rfl) fun _ hs => hs.inv_detachRule tag
  | find tag => cases he; exact h.accept (hp rfl) fun _ hs => hs.inv_findRule tag
  | save =>
    cases he
    exact h.accept (hp rfl) fun _ hs => (hs.inv_callCpu (c := .save) (by simp [CpuCall.Serves]) (by simp) _).settleAll
  | restore => cases he; exact h.accept (hp rfl) fun _ hs => hs.inv_restoreRule.settleAll
  | swapVariant variant => cases he; exact h.accept (hp rfl) fun _ hs => hs.inv_swapRule variant
  | bus i hi =>
    rw [exec_of_bus hi] at he
    rw [onBus_eq_next he]
    exact h.serveBus i

end Sys2Proof.Machine

namespace Sys2Proof.Machine

/-! Every step keeps the invariant (R17). -/

theorem requireNoData_eq_ok {d : Byte} {i j : Instr} (h : requireNoData d i = .ok j) : i = j := by
  unfold requireNoData at h
  split at h
  · exact Except.ok.inj h
  · cases h

theorem decodeBus_channel {w : BusWord} {i : Instr} (h : decodeBus w = .ok i) : i.channel = .bus := by
  unfold decodeBus at h
  split at h
  · unfold decodeBusFields at h
    split at h
    · cases requireNoData_eq_ok h; rfl
    · cases requireNoData_eq_ok h; rfl
    · cases h; rfl
    · cases requireNoData_eq_ok h; rfl
    · cases h; rfl
    · cases requireNoData_eq_ok h; rfl
    · split at h
      · cases requireNoData_eq_ok h; rfl
      · cases h
    · cases requireNoData_eq_ok h; rfl
    · cases h
  · cases h

/-- Between commands the host's next word is taken with its payload. -/
theorem Inv.takeWord {s : State} (h : Inv s) (hp : s.pend = .idle) (hs : List HostInput) (p : Payload) :
    Inv { s with hostIn := hs, payload := p } :=
  CoreInv.inv_idle (s := { s with hostIn := hs, payload := p }) h.core.keep (h.not_busy hp) hp (h.idle.2 hp)
    (h.loggedBy_tsc (by simp [hp, cpuCallOf]))

/-- Settles O4, by the agent whose turn the step is. -/
theorem stepKeepsInv : Obligations.StepKeepsInv := by
  intro s t h he
  obtain ⟨w, ws, i, hp, -, -, hstep⟩ | ⟨w, ws, r, hp, -, -, hstep⟩ | ⟨c, w, es, i, hp, -, hd, hstep⟩ |
    ⟨c, w, es, r, hp, -, -, hstep⟩ | ⟨u, hm, hstep⟩ | hstep := step_cases s <;> rw [hstep] at he
  · exact (h.takeWord hp ws w.payload).exec (fun _ => hp) he
  · cases he
    exact (h.takeWord hp ws w.payload).accept hp nofun
  · have hbus : i.channel ≠ .host := by rw [decodeBus_channel hd]; decide
    exact Inv.exec (s := { s with cpuIn := es }) h.keep (fun hc => absurd hc hbus) he
  · cases he
    exact Inv.busFault (s := { s with cpuIn := es }) h.keep _
  · cases he
    exact h.micro hm
  · cases he
    exact h

/-- Settles O2: State.reset is a power-on with a valid record. -/
theorem resetInv : Obligations.ResetInv := powerOnInv _ (by decide)

end Sys2Proof.Machine

namespace Sys2Proof.Machine

/-! Power-on (R51). -/

theorem homeTarget_src (c : Cfg) (paging : BitVec 6) (i : Nat) : (homeTarget c paging i).src = .home := by
  unfold homeTarget
  cases c.variant with
  | base => unfold homeBase; dsimp only; split <;> [skip; split] <;> rfl
  | paged => unfold homePaged; dsimp only; split <;> rfl
  | scld => unfold homeScld; dsimp only; split <;> rfl

theorem slotEntry_homeTable_src (c : Cfg) (paging : BitVec 6) (i : Nat) :
    (slotEntry (homeTable c paging) i).src = .home := by
  rcases Nat.lt_or_ge i c.slotCount with hi | hi
  · simp [slotEntry, homeTable, hi, targetSlot, homeTarget_src]
  · simp [slotEntry, homeTable, hi]

/-- A source no slot has gives an empty mask (R291). -/
theorem srcMask_eq_zero {src : SlotSrc} {s : State} (h : ∀ i, (slotEntry s.slots i).src ≠ src) : srcMask src s = 0 := by
  simp [srcMask, h, byteOfBits, List.range, List.range.loop]

/-- Every effective value is 0 at power-on (R291). -/
theorem eff_powerOn (c : Cfg) (id : LogId) : eff (State.powerOn c) id = 0 := by
  have hhome : ∀ i, (slotEntry (State.powerOn c).slots i).src = .home := slotEntry_homeTable_src c 0
  have hval : effValue (State.powerOn c) id = 0 := by
    cases id with
    | border => rfl
    | mode => rfl
    | shadow => simp [effValue, State.powerOn, shadowBit]
    | source =>
      have hdock := srcMask_eq_zero (src := .dock) (s := State.powerOn c) (by simp [hhome])
      have hex := srcMask_eq_zero (src := .ex) (s := State.powerOn c) (by simp [hhome])
      rw [effValue, hdock, hex]
      rfl
  rw [eff, hval, ite_self]

/-- Settles O1, row by row of R51. -/
theorem powerOnState : Obligations.PowerOnState := by
  intro c
  have hlogs : ∀ id, logOf (State.powerOn c).logs id
      = ⟨eff (State.powerOn c) id, eff (State.powerOn c) id, []⟩ := fun id => by
    rw [eff_powerOn]
    cases id <;> rfl
  exact ⟨rfl, rfl, rfl, rfl, rfl, rfl, rfl, rfl, rfl, rfl, rfl, rfl, rfl, fun hv => homeTable_eq hv 0, hlogs, rfl, rfl,
    fun _ => rfl, fun hv => ⟨powerOn_ctrl hv, powerOn_fault hv⟩, fun hv => by simp [State.powerOn, hv]⟩

end Sys2Proof.Machine

namespace Sys2Proof.Machine

/-! MAP_ROM_BANK and MAP_RAM_BANK (R253, R254). -/

theorem targetFits_byte (k : SlotKind) (src : SlotSrc) (bank : BitVec 8) : targetFits ⟨k, src, bank.toNat⟩ = true :=
  decide_eq_true bank.isLt

theorem targetSlot_fixedRom (c : Cfg) (bank : BitVec 8) : targetSlot c ⟨.rom, .fixed, bank.toNat⟩ = fixedRom bank := by
  simp [targetSlot, targetFits_byte, fixedRom, contended]

/-- CONT of a RAM bank, from the bits of its number (R240). -/
theorem targetSlot_fixedRam (c : Cfg) (bank : BitVec 8) :
    targetSlot c ⟨.ram, .fixed, bank.toNat⟩ = fixedRam c.variant bank := by
  have hodd : decide (bank.toNat % 2 = 1) = bank.getLsbD 0 := by
    rw [BitVec.getLsbD, Nat.testBit_zero]
  have htwo : (decide (bank.toNat = 0) || decide (bank.toNat = 1)) = decide (bank.toNat < 2) := by
    rw [← Bool.decide_or, decide_eq_decide]
    omega
  simp only [targetSlot, targetFits_byte, if_true, fixedRam, contended, BitVec.ofNat_toNat, BitVec.setWidth_eq]
  cases c.variant with
  | base => rfl
  | paged => rw [hodd]
  | scld => rw [htwo]

/-- Within the frame a mapping of a bank in range is its `remap` and its `note`. -/
theorem writeThenNote_remap {s : State} (hr : s.Ready) {i : Nat} {t : Target} {e : Slot} (hi : i < s.cfg.slotCount)
    (hok : targetOk s.cfg t = true) (hfit : targetFits t = true) (he : targetSlot s.cfg t = e)
    (hroom : State.LogRoom { s with slots := s.slots.set i e } s.tsc) :
    writeThenNote (remap i t) s.performing
      = State.replied .ok 0 (State.noted s.tsc { s with slots := s.slots.set i e }) := by
  have hw : remap i t s.performing = State.performing { s with slots := s.slots.set i e } := by
    rw [remap_of_ok (s := s.performing) hi hok hfit, ← he]
    rfl
  exact writeThenNote_busy (u := { s with slots := s.slots.set i e }) hw hr.2 hroom

/-- Settles O28, by the one `remap` of each command. -/
theorem mapBankWritesSlot : Obligations.MapBankWritesSlot := by
  intro s slot bank hr hf hslot
  refine ⟨fun hbank hroom => ?_, fun hbank hroom => ?_⟩
  · have hexec : exec (.mapRomBank slot bank) s
        = .next (writeThenNote (remap slot.toNat ⟨.rom, .fixed, bank.toNat⟩) s.performing) :=
      hostCommand_inFrame (c := .mapRomBank slot bank) hr hf (writeThenNote_pend _ _)
    rw [hexec, writeThenNote_remap hr hslot (decide_eq_true hbank) (targetFits_byte ..) (targetSlot_fixedRom ..) hroom]
  · have hexec : exec (.mapRamBank slot bank) s
        = .next (writeThenNote (remap slot.toNat ⟨.ram, .fixed, bank.toNat⟩) s.performing) :=
      hostCommand_inFrame (c := .mapRamBank slot bank) hr hf (writeThenNote_pend _ _)
    rw [hexec, writeThenNote_remap hr hslot (decide_eq_true hbank) (targetFits_byte ..) (targetSlot_fixedRam ..) hroom]

/-! Re-entrant commands (R28, R191, R354). -/

/-- A command accepted while BUSY is 1 raises REENTRANT and is not performed (R191). -/
theorem exec_of_busy {s : State} (hf : s.ctrl ≠ .faulted) (hb : s.busy = true) {i : Instr} (hi : i.channel = .host) :
    exec i s = .next (s.withFault .reentrant) := by
  have hcmd : ∀ legal f, hostCommand legal f s = .next (s.withFault .reentrant) := fun legal f => by
    rw [hostCommand, accept, if_pos hb, raise_eq_withFault hf]
  have hread : ∀ legal f, acceptRead legal f s = s.withFault .reentrant := fun legal f => by
    rw [acceptRead, if_pos hb, raise_eq_withFault hf]
  induction i using instr_byRule with
  | ensured i c hc => rw [exec_of_ensuredCmd hc, hcmd]
  | rdreg reg idx =>
    simp only [exec, execRdreg, hread]
    split <;> rfl
  | attach parent tag => exact hcmd _ _
  | detach tag => exact hcmd _ _
  | find tag => exact hcmd _ _
  | save => exact hcmd _ _
  | restore => exact hcmd _ _
  | swapVariant variant => exact hcmd _ _
  | bus i hbus => exact absurd (hi.symm.trans hbus) (by decide)

/-- Settles O27: BUSY is checked first, and each agent's command is answered by `raise`. -/
theorem reentrantFaults : Obligations.ReentrantFaults := by
  intro s hf
  refine ⟨fun i hi hb => exec_of_busy hf hb hi, fun c w rest hp hq => ?_, fun c d k w rest hp hq => ?_,
    fun k n w rest hp hq => ?_⟩
  · have hstep : step s = .next (raise .reentrant { s with cpuIn := rest }) := by
      simp [step, fetchNext, fetchCpu, hp, hq, cpuEvent]
    rw [hstep, raise_eq_withFault (s := { s with cpuIn := rest }) hf]
  · have hstep : step s = .next (raise .reentrant { s with devIn := rest }) := by
      simp [step, fetchNext, micro, hp, hq, ioEvent]
    rw [hstep, raise_eq_withFault (s := { s with devIn := rest }) hf]
  · have hstep : step s = .next (raise .reentrant { s with devIn := rest }) := by
      simp [step, fetchNext, micro, hp, hq, noticeEvent]
    rw [hstep, raise_eq_withFault (s := { s with devIn := rest }) hf]

end Sys2Proof.Machine

namespace Sys2Proof.Machine

/-! In FAULTED a step moves only the agents' queues, the replies and the end of the command (R412, R413). -/

/-- `t` differs from `s` at most in what FAULTED leaves to change: the queues, the replies, STATUS and the command's end. -/
def FaultedFrame (s t : State) : Prop :=
  t = { s with busy := t.busy, nmiClaimed := t.nmiClaimed, nmiAccepted := t.nmiAccepted, refused := t.refused,
               result := t.result, value := t.value, busReply := t.busReply, payload := t.payload, pend := t.pend,
               hostIn := t.hostIn, cpuIn := t.cpuIn, devIn := t.devIn }

/-- What was taken from a queue first is part of the frame. -/
theorem FaultedFrame.after {s t u : State} (h : FaultedFrame u t) (hu : FaultedFrame s u := by rfl) : FaultedFrame s t := by
  unfold FaultedFrame at *
  rw [h, hu]

theorem FaultedFrame.fault {s t : State} (h : FaultedFrame s t) : t.fault = s.fault := by
  rw [show t = _ from h]

section
variable {s : State} (hf : s.ctrl = .faulted)
include hf

theorem FaultedFrame.raise (b : FaultBit) : FaultedFrame s (raise b s) := by
  rw [raise_of_faulted hf]
  rfl

theorem FaultedFrame.accept (legal : Bool) (f : State → State) : FaultedFrame s (accept legal f s) := by
  unfold Machine.accept
  split
  · exact .raise hf _
  · rfl

theorem FaultedFrame.acceptRead (legal : Bool) {f : State → State} (h : FaultedFrame s (f s)) :
    FaultedFrame s (acceptRead legal f s) := by
  obtain ⟨-, he⟩ | ⟨-, -, he⟩ | ⟨-, -, he⟩ := acceptRead_cases legal f s
  · rw [he]; exact .raise hf _
  · rw [he]; rfl
  · rwa [he]

theorem FaultedFrame.replyReg (bits n : Nat) : FaultedFrame s (replyReg bits n s) := by
  obtain ⟨-, he⟩ | ⟨-, he⟩ := replyReg_cases bits n s
  · rw [he, FaultedFrame, finish, if_pos hf, ← hf]
  · rw [he, raise_of_faulted hf]; rfl

/-- A bus word is ignored and answered with zeros (R412). -/
theorem busCycle_of_faulted (ts : Stamp) (f : CpuCall → State → State) :
    busCycle ts f s = { s with busReply := BusReply.zero } := if_pos hf

theorem FaultedFrame.serveBus (i : Instr) : FaultedFrame s (serveBus i s) := by
  have hbus : ∀ ts f, FaultedFrame s (busCycle ts f s) := fun ts f => by rw [busCycle_of_faulted hf]; rfl
  cases i with
  | fetch a ts => exact (hbus _ _ : FaultedFrame s (serveFetch a ts s))
  | memRead a ts => exact (hbus _ _ : FaultedFrame s (serveMemRead a ts s))
  | memWrite v a ts => exact (hbus _ _ : FaultedFrame s (serveMemWrite v a ts s))
  | ioRead p ts => exact (hbus _ _ : FaultedFrame s (serveIoRead p ts s))
  | ioWrite v p ts => exact (hbus _ _ : FaultedFrame s (serveIoWrite v p ts s))
  | contend a ts => exact (hbus _ _ : FaultedFrame s (serveContend a ts s))
  | intSample ts => exact (hbus _ _ : FaultedFrame s (serveIntSample ts s))
  | intAck a ts => exact (hbus _ _ : FaultedFrame s (serveIntAck ts s))
  | _ => rfl

theorem FaultedFrame.exec {t : State} {i : Instr} (he : exec i s = .next t) : FaultedFrame s t := by
  have hcmd : ∀ legal f, hostCommand legal f s = .next t → FaultedFrame s t := fun legal f he => by
    cases he
    exact .accept hf legal f
  induction i using instr_byRule with
  | ensured i c hc => exact hcmd _ _ (exec_of_ensuredCmd hc s ▸ he)
  | rdreg reg idx =>
    simp only [Machine.exec, execRdreg] at he
    split at he
    · cases he; exact .acceptRead hf _ (.replyReg hf _ _)
    · cases he; exact .acceptRead hf _ rfl
  | attach parent tag => exact hcmd _ _ he
  | detach tag => exact hcmd _ _ he
  | find tag => exact hcmd _ _ he
  | save => exact hcmd _ _ he
  | restore => exact hcmd _ _ he
  | swapVariant variant => exact hcmd _ _ he
  | bus i hi =>
    rw [exec_of_bus hi] at he
    rw [onBus_eq_next he]
    exact .serveBus hf i

theorem FaultedFrame.badBusWord : FaultedFrame s (badBusWord s) := by
  rw [Machine.badBusWord, busFault, raise_of_faulted (s := { s with busReply := BusReply.zero }) hf]
  rfl

theorem FaultedFrame.cpuEvent (c : CpuCall) (e : CpuEvent) : FaultedFrame s (cpuEvent c e s) := by
  cases e with
  | command w => exact .raise hf _
  | bus w =>
    unfold Machine.cpuEvent
    dsimp only
    split
    · exact .serveBus hf _
    · exact .badBusWord hf
  | ret r =>
    have hstop : ∀ u, FaultedFrame s (if s.ctrl = .faulted then stopCmd s else u) := fun u => by rw [if_pos hf]; rfl
    cases c with
    | nmi claimed =>
      rw [Machine.cpuEvent, cpuReturn, nmiReturn]
      dsimp only
      rw [if_pos hf]
      rfl
    | step single => exact hstop _
    | reset hard => exact hstop _
    | save => exact hstop _
    | check => exact hstop _
    | restore => exact hstop _

theorem FaultedFrame.ioEvent (c : CpuCall) (d : Dir) (w : BitVec 32) (e : DevEvent) :
    FaultedFrame s (ioEvent c d w e s) := by
  cases e with
  | command w' => exact .raise hf _
  | ret data claim =>
    unfold Machine.ioEvent
    dsimp only
    rw [if_pos hf]
    rfl

theorem FaultedFrame.noticeEvent (k : Nat) (n : Notice) (e : DevEvent) : FaultedFrame s (noticeEvent k n e s) := by
  cases e with
  | command w => exact .raise hf _
  | ret data claim =>
    unfold Machine.noticeEvent
    dsimp only
    rw [if_pos hf]
    rfl

theorem FaultedFrame.micro {t : State} (hm : micro s = some t) : FaultedFrame s t := by
  obtain ⟨c, e, es, -, -, rfl⟩ | ⟨c, d, w, e, es, -, -, rfl⟩ | ⟨k, n, e, es, -, -, rfl⟩ := micro_cases hm
  · exact FaultedFrame.after (FaultedFrame.cpuEvent (s := { s with cpuIn := es }) hf c e)
  · exact FaultedFrame.after (FaultedFrame.ioEvent (s := { s with devIn := es }) hf c d w e)
  · exact FaultedFrame.after (FaultedFrame.noticeEvent (s := { s with devIn := es }) hf k n e)

/-- What a step can change in FAULTED (R413). -/
theorem FaultedFrame.step {t : State} (he : step s = .next t) : FaultedFrame s t := by
  obtain ⟨w, ws, i, -, -, -, hs⟩ | ⟨w, ws, r, -, -, -, hs⟩ | ⟨c, w, es, i, -, -, -, hs⟩ | ⟨c, w, es, r, -, -, -, hs⟩ |
    ⟨u, hm, hs⟩ | hs := step_cases s <;> rw [hs] at he
  · exact FaultedFrame.after (FaultedFrame.exec (s := { s with hostIn := ws, payload := w.payload }) hf he)
  · cases he
    exact FaultedFrame.after (FaultedFrame.accept (s := { s with hostIn := ws, payload := w.payload }) hf _ _)
  · exact FaultedFrame.after (FaultedFrame.exec (s := { s with cpuIn := es }) hf he)
  · cases he
    exact FaultedFrame.after (FaultedFrame.badBusWord (s := { s with cpuIn := es }) hf)
  · cases he
    exact .micro hf hm
  · cases he
    rfl

end

end Sys2Proof.Machine

namespace Sys2Proof.Machine

/-! STATUS.REFUSED: the agents' answers leave it, and a command sets it or leaves it (R30, R416). -/

theorem busCycle_refused (ts : Stamp) {f : CpuCall → State → State} (hf : ∀ c s, (f c s).refused = s.refused) (s : State) :
    (busCycle ts f s).refused = s.refused := by
  obtain ⟨-, he⟩ | ⟨-, he⟩ | ⟨-, he⟩ | ⟨-, -, c, -, -, he⟩ := busCycle_cases ts f s
  · rw [he]
  · simp [he, busFault]
  · simp [he, busFault]
  · simp [he, hf]

theorem withWait_refused (wait : Option (BitVec 32)) {f : BitVec 32 → State → State}
    (hf : ∀ w s, (f w s).refused = s.refused) (s : State) : (withWait wait f s).refused = s.refused := by
  cases wait with
  | some w => exact hf w s
  | none => simp [withWait, busFault]

@[simp] theorem answerMem_refused (wait : Option (BitVec 32)) (v : Byte) (s : State) :
    (answerMem wait v s).refused = s.refused := by
  exact withWait_refused wait (fun _ _ => by rfl) s

@[simp] theorem memRead_refused (a : Addr) (s : State) : (memRead a s).2.refused = s.refused := by
  unfold memRead
  dsimp only
  split
  · rfl
  · rfl
  · split <;> rfl
  · rfl

@[simp] theorem memWrite_refused (a : Addr) (v : Byte) (s : State) : (memWrite a v s).refused = s.refused := by
  rw [memWrite_frame]

theorem ioEvent_refused (c : CpuCall) (d : Dir) (w : BitVec 32) (e : DevEvent) (s : State) :
    (ioEvent c d w e s).refused = s.refused := by
  cases e with
  | command w' => exact raise_refused _ _
  | ret data claim =>
    unfold ioEvent
    dsimp only
    split
    · rfl
    · split <;> rfl

@[simp] theorem settleIoAll_refused (s : State) : (settleIoAll s).refused = s.refused :=
  settleIo_keeps (fun t => t.refused = s.refused)
    (fun t c d w e es _ _ ht => (ioEvent_refused c d w e { t with devIn := es }).trans ht) _ s rfl

theorem portRead_refused (c : CpuCall) (p : Addr) (ts : Stamp) (w : BitVec 32) (s : State) :
    (portRead c p ts w s).refused = s.refused := by
  unfold portRead
  split
  · next r _ => cases r <;> rfl
  · split
    · simp
    · rfl

theorem portWrite_refused (c : CpuCall) (p : Addr) (v : Byte) (ts : Stamp) (w : BitVec 32) (s : State) :
    (portWrite c p v ts w s).refused = s.refused := by
  unfold portWrite
  split
  · unfold answerWrite
    split <;> simp
  · split
    · simp
    · rfl

theorem serveBus_refused (i : Instr) (s : State) : (serveBus i s).refused = s.refused := by
  cases i with
  | fetch a ts => exact (busCycle_refused ts (fun _ _ => by simp) s : (serveFetch a ts s).refused = _)
  | memRead a ts => exact (busCycle_refused ts (fun _ _ => by simp) s : (serveMemRead a ts s).refused = _)
  | memWrite v a ts => exact (busCycle_refused ts (fun _ _ => by simp) s : (serveMemWrite v a ts s).refused = _)
  | ioRead p ts =>
    exact (busCycle_refused ts (fun c _ => withWait_refused _ (portRead_refused c p ts) _) s :
      (serveIoRead p ts s).refused = _)
  | ioWrite v p ts =>
    exact (busCycle_refused ts (fun c _ => withWait_refused _ (portWrite_refused c p v ts) _) s :
      (serveIoWrite v p ts s).refused = _)
  | contend a ts => exact (busCycle_refused ts (fun _ _ => by simp) s : (serveContend a ts s).refused = _)
  | intSample ts => exact (busCycle_refused ts (fun _ _ => by rfl) s : (serveIntSample ts s).refused = _)
  | intAck a ts => exact (busCycle_refused ts (fun _ _ => by rfl) s : (serveIntAck ts s).refused = _)
  | _ => rfl

@[simp] theorem endReset_refused (s : State) : (endReset s).refused = s.refused := by simp [endReset]

@[simp] theorem writeThenNote_refused (write : State → State) (s : State) :
    (writeThenNote write s).refused = (write s).refused := by
  unfold writeThenNote unlessFaulted
  split <;> simp

@[simp] theorem runFrameLoop_refused (s : State) : (runFrameLoop s).refused = s.refused := by
  unfold runFrameLoop
  split <;> simp

@[simp] theorem startNmi_refused (s : State) : (startNmi s).refused = s.refused := by
  unfold startNmi
  split <;> simp

theorem wrregAfter_refused {reg value : BitVec 8} {s : State} (h : s.refused = true) :
    (wrregAfter reg value s).refused = true := by
  unfold wrregAfter
  split <;> simp [h]

theorem afterEnsure_refused {c : Cmd} {s : State} (h : s.refused = true) : (afterEnsure c s).refused = true := by
  cases c with
  | wrreg reg value => exact wrregAfter_refused h
  | _ => simp [afterEnsure, h]

theorem afterNotice_refused {n : Notice} {s : State} (h : s.refused = true) : (afterNotice n s).refused = true := by
  cases n with
  | boundary c => exact afterEnsure_refused h
  | reset => exact (endReset_refused s).trans h
  | nmi b => exact h

theorem tellDevices_refused {n : Notice} {s : State} (h : s.refused = true) : (tellDevices n s).refused = true := by
  unfold tellDevices
  split
  · exact afterNotice_refused h
  · exact h

theorem ensure_refused {c : Cmd} {s : State} (h : s.refused = true) : (ensure c s).refused = true := by
  rw [ensure_eq]
  split
  · exact tellDevices_refused h
  · exact afterEnsure_refused h

@[simp] theorem stepReturn_refused (single : Bool) (r : CpuReply) (s : State) :
    (stepReturn single r s).refused = s.refused := by
  have hend : ∀ t : State, State.refused (if t.ctrl = .faulted then stopCmd t
      else if single then endCmd (outcomeResult r.outcome) 0 t else runFrameLoop t) = t.refused := by
    intro t
    split
    · simp
    · split <;> simp
  unfold stepReturn
  rw [hend]
  split <;> simp

@[simp] theorem nmiReturn_refused (claimed : Bool) (r : CpuReply) (s : State) :
    (nmiReturn claimed r s).refused = s.refused := by
  unfold nmiReturn
  dsimp only
  split
  · rfl
  · rw [endCmd_refused]
    split
    · simp
    · split
      · simp
      · split <;> simp

@[simp] theorem saveReturn_refused (cpu : List Byte) (s : State) : (saveReturn cpu s).refused = s.refused := by
  obtain ⟨-, he⟩ | ⟨-, he⟩ := saveReturn_cases cpu s <;> simp [he]

@[simp] theorem checkReturn_refused (accepted : Bool) (s : State) : (checkReturn accepted s).refused = s.refused := by
  unfold checkReturn
  split <;> simp

@[simp] theorem resetRegs_refused (hard : Bool) (s : State) : (resetRegs hard s).refused = s.refused := by
  cases hard <;> simp [resetRegs]

theorem resetAfterCpu_refused {hard : Bool} {s : State} (h : s.refused = true) : (resetAfterCpu hard s).refused = true := by
  rw [resetAfterCpu_eq]
  split
  · simpa using h
  · exact tellDevices_refused (by simpa using h)

theorem cpuReturn_refused {c : CpuCall} {r : CpuReply} {s : State} (h : s.refused = true) :
    (cpuReturn c r s).refused = true := by
  have hstop : ∀ u : State, u.refused = true → State.refused (if s.ctrl = .faulted then stopCmd s else u) = true := by
    intro u hu
    split
    · exact h
    · exact hu
  cases c with
  | nmi claimed => exact (nmiReturn_refused claimed r s).trans h
  | step single => exact hstop _ (by simpa using h)
  | reset hard => exact hstop _ (resetAfterCpu_refused h)
  | save => exact hstop _ (by simpa using h)
  | check => exact hstop _ (by simpa using h)
  | restore => exact hstop _ h

theorem cpuEvent_refused {c : CpuCall} {e : CpuEvent} {s : State} (h : s.refused = true) :
    (cpuEvent c e s).refused = true := by
  cases e with
  | command w => exact (raise_refused _ _).trans h
  | ret r => exact cpuReturn_refused h
  | bus w =>
    unfold cpuEvent
    dsimp only
    split
    · exact (serveBus_refused _ s).trans h
    · exact (raise_refused _ _).trans h

theorem noticeEvent_refused {k : Nat} {n : Notice} {e : DevEvent} {s : State} (h : s.refused = true) :
    (noticeEvent k n e s).refused = true := by
  cases e with
  | command w => exact (raise_refused _ _).trans h
  | ret data claim =>
    unfold noticeEvent
    dsimp only
    split
    · exact h
    · split
      · exact h
      · exact afterNotice_refused h

theorem micro_refused {s t : State} (hm : micro s = some t) (h : s.refused = true) : t.refused = true := by
  obtain ⟨c, e, es, -, -, rfl⟩ | ⟨c, d, w, e, es, -, -, rfl⟩ | ⟨k, n, e, es, -, -, rfl⟩ := micro_cases hm
  · exact cpuEvent_refused h
  · exact (ioEvent_refused c d w e _).trans h
  · exact noticeEvent_refused h

theorem settleAll_refused {s : State} (h : s.refused = true) : (settleAll s).refused = true :=
  settleAll_keeps (fun t => t.refused = true) (fun _ _ => micro_refused) s h

theorem accept_refused {legal : Bool} {f : State → State} {s : State} (h : s.refused = true)
    (hf : ∀ t : State, t.refused = true → (f t).refused = true) : (accept legal f s).refused = true := by
  obtain ⟨-, he⟩ | ⟨-, -, he⟩ | ⟨-, -, he⟩ | ⟨-, -, he⟩ := accept_cases legal f s
  · simpa [he] using h
  · simpa [he] using h
  · simp [he]
  · rw [he]; exact hf _ h

theorem acceptRead_refused {legal : Bool} {f : State → State} {s : State} (h : s.refused = true)
    (hf : (f s).refused = true) : (acceptRead legal f s).refused = true := by
  obtain ⟨-, he⟩ | ⟨-, -, he⟩ | ⟨-, -, he⟩ := acceptRead_cases legal f s
  · simpa [he] using h
  · simp [he]
  · rwa [he]

@[simp] theorem replyReg_refused (bits n : Nat) (s : State) : (replyReg bits n s).refused = s.refused := by
  obtain ⟨-, he⟩ | ⟨-, he⟩ := replyReg_cases bits n s <;> simp [he]

@[simp] theorem restoreRule_refused (s : State) : (restoreRule s).refused = s.refused := by
  unfold restoreRule
  dsimp only
  split <;> simp

@[simp] theorem swapRule_refused (tag : BitVec 8) (s : State) : (swapRule tag s).refused = s.refused := by
  unfold swapRule
  split
  · simp
  · rfl

@[simp] theorem attachRule_refused (parent : BitVec 8) (tag : BitVec 16) (s : State) :
    (attachRule parent tag s).refused = s.refused := by
  unfold attachRule
  split
  · simp
  · split
    · simp
    · split <;> simp

@[simp] theorem detachRule_refused (tag : BitVec 16) (s : State) : (detachRule tag s).refused = s.refused := by
  unfold detachRule
  split <;> rfl

@[simp] theorem findRule_refused (tag : BitVec 16) (s : State) : (findRule tag s).refused = s.refused := by
  unfold findRule
  split <;> rfl

theorem exec_refused {i : Instr} {s t : State} (h : s.refused = true) (he : exec i s = .next t) : t.refused = true := by
  induction i using instr_byRule with
  | ensured i c hc =>
    rw [exec_of_ensuredCmd hc] at he
    cases he
    exact accept_refused h fun u hu => settleAll_refused (ensure_refused hu)
  | rdreg reg idx =>
    simp only [exec, execRdreg] at he
    split at he
    · cases he; exact acceptRead_refused h (by simpa using h)
    · cases he; exact acceptRead_refused h h
  | attach parent tag => cases he; exact accept_refused h fun u hu => by simpa using hu
  | detach tag => cases he; exact accept_refused h fun u hu => by simpa using hu
  | find tag => cases he; exact accept_refused h fun u hu => by simpa using hu
  | save => cases he; exact accept_refused h fun u hu => settleAll_refused hu
  | restore => cases he; exact accept_refused h fun u hu => settleAll_refused (by simpa using hu)
  | swapVariant variant => cases he; exact accept_refused h fun u hu => by simpa using hu
  | bus i hi =>
    rw [exec_of_bus hi] at he
    rw [onBus_eq_next he, serveBus_refused]
    exact h

theorem step_refused {s t : State} (h : s.refused = true) (he : step s = .next t) : t.refused = true := by
  obtain ⟨w, ws, i, -, -, -, hs⟩ | ⟨w, ws, r, -, -, -, hs⟩ | ⟨c, w, es, i, -, -, -, hs⟩ | ⟨c, w, es, r, -, -, -, hs⟩ |
    ⟨u, hm, hs⟩ | hs := step_cases s <;> rw [hs] at he
  · exact exec_refused (s := { s with hostIn := ws, payload := w.payload }) h he
  · cases he
    exact accept_refused (s := { s with hostIn := ws, payload := w.payload }) h fun _ hu => hu
  · exact exec_refused (s := { s with cpuIn := es }) h he
  · cases he
    exact (raise_refused _ _).trans h
  · cases he
    exact micro_refused hm h
  · cases he
    exact h

/-- Settles O6: REFUSED is only ever set, and a bit of FAULT is set in FAULTED alone, where FAULT stays. -/
theorem stickyBits : Obligations.StickyBits := by
  intro s t hinv he
  refine ⟨fun h => step_refused h he, fun b hb => ?_⟩
  obtain ⟨h0, -⟩ | ⟨hf, -⟩ := hinv
  · rw [h0] at hb
    simp at hb
  · rwa [(FaultedFrame.step hf he).fault]

end Sys2Proof.Machine

namespace Sys2Proof.Machine

/-! A notification that every device answers at once (R337 to R340). -/

/-- A notification once the devices' replies are taken in (R340). -/
def noticeAfter (replies : List (Byte × Bool)) (n : Notice) : Notice := replies.foldl (fun n r => noticeWith r.2 n) n

/-- The calls that tell the devices from index `k` on, newest first (R337). -/
def toldFrom (op : DevOp) (k : Nat) (s : State) : List AgentCall :=
  (((s.dev.drop k).zipIdx k).map fun p => AgentCall.dev p.2 p.1.agent.id op).reverse

theorem toldFrom_end (op : DevOp) {k : Nat} {s : State} (h : s.dev.length ≤ k) : toldFrom op k s = [] := by
  simp [toldFrom, List.drop_of_length_le h]

theorem toldFrom_step (op : DevOp) {k : Nat} {s : State} (h : k < s.dev.length) :
    toldFrom op k s = toldFrom op (k + 1) s ++ [.dev k (agentIdAt s k) op] := by
  have hid : agentIdAt s k = (s.dev[k]).agent.id := by simp [agentIdAt, h]
  rw [toldFrom, List.drop_eq_getElem_cons h, List.zipIdx_cons, List.map_cons, List.reverse_cons, hid]
  rfl

/-- A reply changes what a notification carries, not the operation it calls. -/
theorem noticeOp_noticeWith (ts : Stamp) (b : Bool) (n : Notice) : noticeOp ts (noticeWith b n) = noticeOp ts n := by
  cases n <;> rfl

theorem noticeAfter_cons (r : Byte × Bool) (rs : List (Byte × Bool)) (n : Notice) :
    noticeAfter (r :: rs) n = noticeAfter rs (noticeWith r.2 n) := rfl

/-- The devices from index `k` on were told and answered, which leaves `drest` to be said (R337). -/
def State.told (op : DevOp) (k : Nat) (p : Pend) (drest : List DevEvent) (s : State) : State :=
  { s with pend := p, devIn := drest, calls := toldFrom op k s ++ s.calls }

/-- Device `k` told, and then those after it. -/
theorem told_askDev {k : Nat} {s : State} (h : k < s.dev.length) (n : Notice) (p : Pend) (drest : List DevEvent) :
    (askDev k n s).told (noticeOp s.tsc n) (k + 1) p drest = s.told (noticeOp s.tsc n) k p drest := by
  rw [State.told, State.told, toldFrom_step _ h, List.append_assoc]
  rfl

/-- The devices' answers up to `ls` were taken. -/
def State.leaving (ls : List DevEvent) (s : State) : State := { s with devIn := ls }

/-- Device `k` and those after it answer at once: the command goes on with every reply taken in (R337, R340). -/
theorem settle_notices (replies : List (Byte × Bool)) (drest : List DevEvent) : ∀ {s : State} {k : Nat} {n : Notice},
    s.ctrl ≠ .faulted → s.pend = .notify k n → k < s.dev.length → k + replies.length = s.dev.length →
    s.devIn = deviceReturns replies ++ drest →
    ∃ p, ∀ m, settle (replies.length + m) s
      = settle m (afterNotice (noticeAfter replies n) (s.told (noticeOp s.tsc n) (k + 1) p drest)) := by
  induction replies with
  | nil => intro s k n _ _ hk hlen; simp at hlen; omega
  | cons r rs ih =>
    intro s k n hs hp hk hlen hq
    rw [List.length_cons] at hlen
    have hhear : ∀ m, settle ((r :: rs).length + m) s
        = settle (rs.length + m) (noticeEvent k n (.ret r.1 r.2) (s.leaving (deviceReturns rs ++ drest))) := by
      intro m
      rw [List.length_cons, Nat.add_right_comm]
      exact settle_notify hp hq _
    by_cases hnext : k + 1 < s.dev.length
    · have hevent : noticeEvent k n (.ret r.1 r.2) (s.leaving (deviceReturns rs ++ drest))
          = askDev (k + 1) (noticeWith r.2 n) (s.leaving (deviceReturns rs ++ drest)) := by
        simp [noticeEvent, State.leaving, hs, hnext]
      obtain ⟨p, hp'⟩ := ih (s := askDev (k + 1) (noticeWith r.2 n) (s.leaving (deviceReturns rs ++ drest)))
        hs rfl hnext (by rw [askDev_dev]; show _ = s.dev.length; omega) rfl
      have htold : (askDev (k + 1) (noticeWith r.2 n) (s.leaving (deviceReturns rs ++ drest))).told
          (noticeOp s.tsc (noticeWith r.2 n)) (k + 1 + 1) p drest
            = s.told (noticeOp s.tsc (noticeWith r.2 n)) (k + 1) p drest :=
        told_askDev (s := s.leaving (deviceReturns rs ++ drest)) hnext _ p drest
      refine ⟨p, fun m => ?_⟩
      rw [hhear, hevent, hp', noticeAfter_cons, ← noticeOp_noticeWith s.tsc r.2 n, ← htold]
      rfl
    · have hrs : rs = [] := List.eq_nil_of_length_eq_zero (by omega)
      subst hrs
      have hevent : noticeEvent k n (.ret r.1 r.2) (s.leaving (deviceReturns [] ++ drest))
          = afterNotice (noticeWith r.2 n) (s.leaving drest) := by
        simp [noticeEvent, State.leaving, hs, hnext, deviceReturns]
      have htold : s.told (noticeOp s.tsc n) (k + 1) s.pend drest = s.leaving drest := by
        rw [State.told, toldFrom_end _ (by omega)]
        rfl
      refine ⟨s.pend, fun m => ?_⟩
      rw [hhear, hevent, htold, List.length_nil, Nat.zero_add]
      rfl

/-- With every device answering at once, the chain is told in order (R337). -/
theorem settle_tellDevices {s : State} {n : Notice} {replies : List (Byte × Bool)} {drest : List DevEvent}
    (hs : s.ctrl ≠ .faulted) (hlen : replies.length = s.dev.length) (hq : s.devIn = deviceReturns replies ++ drest) :
    ∃ p, ∀ m, settle (replies.length + m) (tellDevices n s)
      = settle m (afterNotice (noticeAfter replies n) (s.told (noticeOp s.tsc n) 0 p drest)) := by
  unfold tellDevices
  split
  · next hdev =>
    have hnil : replies = [] := List.eq_nil_of_length_eq_zero (by rw [hlen, hdev]; rfl)
    subst hnil
    have htold : s.told (noticeOp s.tsc n) 0 s.pend drest = s := by
      rw [State.told, toldFrom_end _ (by rw [hdev]; exact le_rfl), ← (show s.devIn = drest from hq)]
      rfl
    refine ⟨s.pend, fun m => ?_⟩
    rw [htold, List.length_nil, Nat.zero_add]
    rfl
  · next hdev =>
    have hpos : 0 < s.dev.length := List.length_pos_of_ne_nil hdev
    obtain ⟨p, hp⟩ := settle_notices replies drest (s := askDev 0 n s) (k := 0) (n := n) hs rfl hpos (by simpa using hlen) hq
    refine ⟨p, fun m => ?_⟩
    rw [hp, ← told_askDev hpos n p drest]
    rfl

/-! RESET with a CPU and devices that return (R200, R338). -/

theorem raise_setPend (b : FaultBit) (p : Pend) (s : State) :
    raise b { s with pend := p } = { raise b s with pend := p } := by
  unfold raise
  dsimp only
  split <;> rfl

theorem noteOne_setPend (ts : Stamp) (id : LogId) (p : Pend) (s : State) :
    noteOne ts id { s with pend := p } = { noteOne ts id s with pend := p } := by
  have happend : ∀ v, logAppend id ts v { s with pend := p } = { logAppend id ts v s with pend := p } := by
    intro v
    obtain ⟨h, he⟩ | ⟨h, hlen, he⟩ | ⟨h, hlen, he⟩ := logAppend_cases id ts v s
    · rw [he, ← raise_setPend]; exact if_pos h
    · rw [he, ← raise_setPend]; exact (if_neg (Nat.not_lt.2 h)).trans (if_pos hlen)
    · rw [he]; exact (if_neg (Nat.not_lt.2 h)).trans (if_neg hlen)
  have hrec : recorded { s with pend := p } id = recorded s id := rfl
  rw [noteOne_eq, noteOne_eq, hrec]
  split
  · exact happend _
  · rfl

/-- `note` does not read the outstanding call. -/
theorem note_setPend (ts : Stamp) (p : Pend) (s : State) : note ts { s with pend := p } = { note ts s with pend := p } := by
  have hturn : ∀ id t, unlessFaulted (noteOne ts id) { t with pend := p }
      = { unlessFaulted (noteOne ts id) t with pend := p } := by
    intro id t
    unfold unlessFaulted
    dsimp only
    split
    · rfl
    · exact noteOne_setPend ts id p t
  simp only [note, hturn]

theorem endReset_setPend (p : Pend) (s : State) : endReset { s with pend := p } = endReset s := by
  simp only [endReset, note_setPend, endCmd, stopCmd, finish, idleCtrl]

/-- With room in the log RESET ends with its `note` and OK (R200, R293). -/
theorem endReset_of_room {s : State} (hs : s.ctrl ≠ .faulted) (hroom : s.LogRoom s.tsc) :
    endReset s = State.replied .ok 0 (s.noted s.tsc) := by
  rw [endReset, note_eq_noted hs hroom]
  exact endCmd_eq_replied (s := s.noted s.tsc) hs

theorem noticeAfter_reset (replies : List (Byte × Bool)) : noticeAfter replies .reset = .reset := by
  induction replies with
  | nil => rfl
  | cons r rs ih => exact ih

/-- RESET before its registers are written: the CPU was reset and returned (R200). -/
def State.cpuWasReset (hard : Bool) (rest : List CpuEvent) (s : State) : State :=
  { s with busy := true, ctrl := .resetting, calls := .cpuReset hard :: s.calls, pend := .cpu (.reset hard), cpuIn := rest }

/-- RESET within the frame is heard once the CPU returned (R196, R200). -/
theorem exec_reset_cpu {s : State} {hard : Bool} {r : CpuReply} {rest : List CpuEvent} (hr : s.Ready) (hf : s.InFrame)
    (hcpu : s.cpuIn = .ret r :: rest) : exec (.reset hard) s
      = .next (settle (rest.length + s.devIn.length) (resetAfterCpu hard (s.cpuWasReset hard rest))) := by
  have hover : frameOver s.performing = false := decide_eq_false (show ¬ s.cfg.n ≤ s.tsc.toNat by omega)
  have hacc : exec (.reset hard) s = .next (settleAll (ensure (.reset hard) s.performing)) :=
    congrArg _ (accept_ready (f := fun s => settleAll (ensure (.reset hard) s)) hr)
  have hens : ensure (.reset hard) s.performing = s.cpuWasReset hard s.cpuIn := by
    rw [ensure, hover]
    rfl
  have hfuel : pendingEvents (s.cpuWasReset hard s.cpuIn) = rest.length + s.devIn.length + 1 := by
    show s.cpuIn.length + s.devIn.length = _
    rw [hcpu, List.length_cons]
    omega
  have hheard : settle (rest.length + s.devIn.length + 1) (s.cpuWasReset hard s.cpuIn)
      = settle (rest.length + s.devIn.length) (cpuEvent (.reset hard) (.ret r) (s.cpuWasReset hard rest)) :=
    settle_cpu (s := s.cpuWasReset hard s.cpuIn) rfl hcpu _
  rw [hacc, hens, settleAll, hfuel, hheard]
  rfl

/-- RESET within the frame, with agents that return at once: its registers, the devices told, its end (R200, R338). -/
theorem exec_reset_inFrame {s : State} {hard : Bool} {r : CpuReply} {rest : List CpuEvent} {replies : List (Byte × Bool)}
    {drest : List DevEvent} (hr : s.Ready) (hf : s.InFrame) (hcpu : s.cpuIn = .ret r :: rest)
    (hlen : replies.length = s.dev.length) (hdev : s.devIn = deviceReturns replies ++ drest) {w : State}
    (hw : resetRegs hard (s.cpuWasReset hard rest) = w) (hwc : w.ctrl ≠ .faulted) (hwd : w.dev = s.dev)
    (hwi : w.devIn = s.devIn) :
    exec (.reset hard) s = .next (endReset (w.told (.onReset w.tsc) 0 w.pend drest)) := by
  have hfuel : rest.length + s.devIn.length = replies.length + (rest.length + drest.length) := by
    rw [hdev, List.length_append, deviceReturns, List.length_map]
    omega
  have htell : resetAfterCpu hard (s.cpuWasReset hard rest) = tellDevices .reset w := by
    rw [resetAfterCpu_eq, hw, if_neg hwc]
  obtain ⟨p, hp⟩ := settle_tellDevices (n := .reset) hwc (hlen.trans (congrArg _ hwd.symm)) (hwi.trans hdev)
  have hend : afterNotice .reset (w.told (.onReset w.tsc) 0 p drest) = endReset (w.told (.onReset w.tsc) 0 w.pend drest) :=
    endReset_setPend p (w.told (.onReset w.tsc) 0 w.pend drest)
  rw [exec_reset_cpu hr hf hcpu, hfuel, htell, hp, noticeAfter_reset]
  exact congrArg _ ((settle_idle (endCmd_pend _ _ _) _).trans hend)

/-- Settles O23: the soft registers, the devices, the `note`. -/
theorem resetSoft : Obligations.ResetSoft := by
  intro s r rest replies drest hr hf hcpu hlen hdev u hroom
  have hmode : ∀ m : BitVec 8, BitVec.ofBool (m.getLsbD 7) ++ (0 : BitVec 7) = m &&& 0x80 := by decide
  have hregs : resetRegs false (s.cpuWasReset false rest) = s.softCleared.cpuWasReset false rest := by
    show softReset _ = _
    simp only [softReset, poolSel, hmode]
    rfl
  rw [exec_reset_inFrame hr hf hcpu hlen hdev hregs (by simp [State.cpuWasReset]) rfl rfl]
  exact congrArg _ (endReset_of_room (by simp [State.cpuWasReset, State.told]) hroom)

/-- Settles O24: the hard registers, the whole table home, the devices, the `note`. -/
theorem resetHard : Obligations.ResetHard := by
  intro s r rest replies drest hr hf hv hslots hcpu hlen hdev u hroom
  have hregs : resetRegs true (s.cpuWasReset true rest) = s.hardCleared.cpuWasReset true rest := by
    show remapHome (hardReset (s.cpuWasReset true rest)) = _
    rw [remapHome_eq (s := hardReset (s.cpuWasReset true rest)) hv (by simp [State.cpuWasReset]) hslots]
    show _ = { hardReset (s.cpuWasReset true rest) with slots := (List.range s.cfg.slotCount).map (homeEntry s.cfg 0) }
    rw [← homeTable_eq hv]
    rfl
  rw [exec_reset_inFrame hr hf hcpu hlen hdev hregs (by simp [State.cpuWasReset]) rfl rfl]
  exact congrArg _ (endReset_of_room (by simp [State.cpuWasReset, State.told]) hroom)

end Sys2Proof.Machine

namespace Sys2Proof.Machine

/-! The byte a memory cycle reads or writes (R78, R79). -/

/-- The entry of the slot a memory address falls in (R71). -/
def State.slotAt (s : State) (a : Addr) : Slot := slotEntry s.slots (slotIndex s.cfg a)

/-- The linear address of the byte behind a memory address whose slot holds RAM (R50, R71). -/
def State.byteAt (s : State) (a : Addr) : Nat := ramAddr s.cfg (s.slotAt a).bank.toNat (slotOffset s.cfg a)

section
variable {s : State} {a : Addr}

theorem memRead_of_rom (h : (s.slotAt a).kind = .rom) :
    memRead a s = (Config.romImage s.cfg.images (s.slotAt a).bank.toNat (slotOffset s.cfg a), s) := by
  unfold State.slotAt at *
  simp [memRead, h]

theorem memRead_of_ram (h : (s.slotAt a).kind = .ram) : memRead a s = (ramByte s (s.byteAt a), s) := by
  unfold State.byteAt State.slotAt at *
  simp [memRead, h]

theorem memRead_of_dock (h : (s.slotAt a).kind = .dock) (hd : s.cfg.dockPresent = true) :
    memRead a s = (Config.dockImage s.cfg.images (s.slotAt a).bank.toNat (slotOffset s.cfg a), s) := by
  unfold State.slotAt at *
  simp [memRead, h, hd]

/-- An unpopulated slot and an absent DOCK read as a free byte (R78, log entry 6). -/
theorem memRead_of_floating
    (h : (s.slotAt a).kind = .unpopulated ∨ ((s.slotAt a).kind = .dock ∧ s.cfg.dockPresent = false)) :
    memRead a s = drawFloating s := by
  unfold State.slotAt at h
  obtain h | ⟨h, hd⟩ := h
  · simp [memRead, h]
  · simp [memRead, h, hd]

/-- Each of the ways a memory read is answered (R78). -/
theorem memRead_cases (a : Addr) (s : State) : (memRead a s).2 = s ∨ memRead a s = drawFloating s := by
  cases hk : (s.slotAt a).kind with
  | rom => exact .inl (by rw [memRead_of_rom hk])
  | ram => exact .inl (by rw [memRead_of_ram hk])
  | dock =>
    cases hd : s.cfg.dockPresent with
    | true => exact .inl (by rw [memRead_of_dock hk hd])
    | false => exact .inr (memRead_of_floating (.inr ⟨hk, hd⟩))
  | unpopulated => exact .inr (memRead_of_floating (.inl hk))

/-- A memory read changes the draws alone (R78). -/
theorem memRead_frame (a : Addr) (s : State) : (memRead a s).2 = { s with draws := (memRead a s).2.draws } := by
  obtain h | h := memRead_cases a s
  · rw [h]
  · rw [h]; rfl

theorem memWrite_of_ram (v : Byte) (h : (s.slotAt a).kind = .ram) : memWrite a v s = ramStore (s.byteAt a) v s := by
  unfold State.byteAt State.slotAt at *
  simp [memWrite, h]

/-- A write to ROM, DOCK or an unpopulated slot is dropped (R79). -/
theorem memWrite_of_not_ram (v : Byte) (h : (s.slotAt a).kind ≠ .ram) : memWrite a v s = s := by
  unfold State.slotAt at h
  unfold memWrite
  dsimp only
  split
  · next hk => exact absurd hk h
  · rfl
  · rfl
  · rfl

/-- A memory write leaves every byte but the addressed one (R79, R81). -/
theorem ramByte_memWrite_other (v : Byte) {b : Nat} (h : b ≠ s.byteAt a) : ramByte (memWrite a v s) b = ramByte s b := by
  by_cases hk : (s.slotAt a).kind = .ram
  · rw [memWrite_of_ram v hk, ramByte_ramStore_other v s h]
  · rw [memWrite_of_not_ram v hk]

end

/-- A memory read does not depend on the bus timestamps. -/
theorem memRead_atBus (a : Addr) (ts : Stamp) (s : State) :
    memRead a (s.atBus ts) = ((memRead a s).1, (memRead a s).2.atBus ts) := by
  simp only [memRead, atBus_cfg, atBus_slots]
  cases (slotEntry s.slots (slotIndex s.cfg a)).kind with
  | dock =>
    by_cases hd : s.cfg.dockPresent = true
    · simp [hd]
    · simp [hd]; rfl
  | _ => rfl

/-- A memory write does not depend on the bus timestamps. -/
theorem memWrite_atBus (a : Addr) (v : Byte) (ts : Stamp) (s : State) :
    memWrite a v (s.atBus ts) = (memWrite a v s).atBus ts := by
  simp only [memWrite, atBus_cfg, atBus_slots]
  cases (slotEntry s.slots (slotIndex s.cfg a)).kind <;> rfl

/-! The memory cycles in a step or an NMI entry (R257, R261 to R263). -/

/-- The reply of a memory cycle that left the block in `s` (R118, R257). -/
theorem answerMem_atBus {s : State} (hs : s.ctrl ≠ .faulted) (a : Addr) (ts : Stamp) (v : Byte) :
    answerMem (memWait a ts (s.atBus ts)) v (s.atBus ts) = s.memReplied ts (memDelay s a ts) v :=
  withWait_atBus hs ts (memDelay s a ts) fun w s => busAnswer w false v s

/-- A wait that WAIT holds is replied (R118). -/
theorem memReplied_of_lt {d : Nat} (hd : d < 2 ^ 32) (ts : Stamp) (v : Byte) (s : State) :
    s.memReplied ts d v = s.busReplied ts v (BitVec.ofNat 32 d) := if_pos hd

section
variable {s : State} {a : Addr} {ts : Stamp} (hs : s.Serving) (ht : s.StampOk ts)
include hs ht

theorem exec_memRead :
    exec (.memRead a ts) s = .next (State.memReplied ts (memDelay s a ts) (memRead a s).1 (memRead a s).2) := by
  obtain ⟨c, -, hc⟩ := busCycle_serving
    (fun _ s => answerMem (memWait a ts (memRead a s).2) (memRead a s).1 (memRead a s).2) hs ht
  have hctrl : (memRead a s).2.ctrl ≠ .faulted := by rw [memRead_frame]; exact hs.1
  have hdelay : memDelay (memRead a s).2 a ts = memDelay s a ts := by rw [memRead_frame]; rfl
  calc exec (.memRead a ts) s
    _ = .next (serveMemRead a ts s) := onBus_serving _ hs
    _ = .next (answerMem (memWait a ts (memRead a (s.atBus ts)).2) (memRead a (s.atBus ts)).1
          (memRead a (s.atBus ts)).2) := congrArg _ hc
    _ = _ := by rw [memRead_atBus, answerMem_atBus hctrl, hdelay]

/-- FETCH is served as MEM_READ is (R262). -/
theorem exec_fetch :
    exec (.fetch a ts) s = .next (State.memReplied ts (memDelay s a ts) (memRead a s).1 (memRead a s).2) := by
  rw [← exec_memRead hs ht]
  rfl

theorem exec_memWrite (v : Byte) :
    exec (.memWrite v a ts) s = .next (State.memReplied ts (memDelay s a ts) 0 (memWrite a v s)) := by
  obtain ⟨c, -, hc⟩ := busCycle_serving (fun _ s => answerMem (memWait a ts s) 0 (memWrite a v s)) hs ht
  have hctrl : (memWrite a v s).ctrl ≠ .faulted := by rw [memWrite_frame]; exact hs.1
  have hwait : memWait a ts (s.atBus ts) = memWait a ts ((memWrite a v s).atBus ts) := by rw [memWrite_frame]; rfl
  have hdelay : memDelay (memWrite a v s) a ts = memDelay s a ts := by rw [memWrite_frame]; rfl
  calc exec (.memWrite v a ts) s
    _ = .next (serveMemWrite v a ts s) := onBus_serving _ hs
    _ = .next (answerMem (memWait a ts (s.atBus ts)) 0 (memWrite a v (s.atBus ts))) := congrArg _ hc
    _ = _ := by rw [memWrite_atBus, hwait, answerMem_atBus hctrl, hdelay]

end

/-- Settles O52: both cycles reply what `memRead` answers, by the kind of the slot. -/
theorem memReadAndFetch : Obligations.MemReadAndFetch := by
  intro s a ts hs ht e off d
  rw [exec_fetch hs ht, exec_memRead hs ht]
  refine ⟨rfl, fun hk => ?_, fun hk => ?_, fun hk hd => ?_, fun hk => ?_⟩
  · rw [memRead_of_rom hk]; rfl
  · rw [memRead_of_ram hk]; rfl
  · rw [memRead_of_dock hk hd]; rfl
  · rw [memRead_of_floating hk]; rfl

/-- Settles O53: through a RAM slot the cycle is one `ramStore`, through any other slot nothing. -/
theorem memWriteOneByte : Obligations.MemWriteOneByte := by
  intro s v a ts hs ht e target d
  rw [exec_memWrite hs ht]
  refine ⟨fun hk => ⟨ramSet s.ram target v, ?_, ramByte_ramStore_same target v s,
    fun b hb => ramByte_ramStore_other v s hb⟩, fun hk => ?_⟩
  · rw [memWrite_of_ram v hk]; rfl
  · rw [memWrite_of_not_ram v hk]

/-- FETCH of a RAM slot replies the byte of its bank, with a wait that WAIT holds (R78, R261). -/
theorem fetch_data_of_ram {s u : State} {a : Addr} {ts : Stamp} (hs : s.Serving) (ht : s.StampOk ts)
    (hk : (s.slotAt a).kind = .ram) (hd : memDelay s a ts < 2 ^ 32) (hu : exec (.fetch a ts) s = .next u) :
    u.busReply.data = ramByte s (s.byteAt a) := by
  rw [exec_fetch hs ht, memRead_of_ram hk, memReplied_of_lt hd] at hu
  rw [← Host.Outcome.next.inj hu]
  rfl

/-- Settles O54: the write leaves the table, so both addresses stand for the same byte of the RAM. -/
theorem writeThenFetch : Obligations.WriteThenFetch := by
  intro s t u v a b ts ts' hs ht e e' hk hk' hbank hoff hd hd' hwrite ht' hfetch
  have hsame : s.byteAt b = s.byteAt a :=
    congrArg₂ (fun (bank : BitVec 8) off => bank.toNat * s.cfg.slotSize + off) hbank hoff
  rw [exec_memWrite hs ht, memWrite_of_ram v hk, memReplied_of_lt hd] at hwrite
  obtain rfl := Host.Outcome.next.inj hwrite
  calc u.busReply.data
    _ = ramByte (ramStore (s.byteAt a) v s) (s.byteAt b) :=
      fetch_data_of_ram (s := (ramStore (s.byteAt a) v s).busReplied ts 0 _) hs ht' hk' hd' hfetch
    _ = ramByte (ramStore (s.byteAt a) v s) (s.byteAt a) := by rw [hsame]
    _ = v := ramByte_ramStore_same _ v s

end Sys2Proof.Machine

namespace Sys2Proof.Machine

/-! What a bus cycle leaves unchanged (R81, R90, R194, R259, R263, R264). -/

/-- `t` differs from `s` at most in what a bus cycle that writes nothing may change: the fault, the bus timestamp, the reply,
the waits, the draws and the call of a device. -/
def CycleFrame (s t : State) : Prop :=
  t = { s with ctrl := t.ctrl, lastBusTs := t.lastBusTs, busUsed := t.busUsed, waitsGiven := t.waitsGiven,
               result := t.result, fault := t.fault, draws := t.draws, value := t.value, busReply := t.busReply,
               calls := t.calls, pend := t.pend, devIn := t.devIn }

theorem CycleFrame.after {s t u : State} (h : CycleFrame u t) (hu : CycleFrame s u) : CycleFrame s t := by
  unfold CycleFrame at *
  rw [h, hu]

/-- The cycle gave no wait, or the one it replies (R118, R459; log entry 32). -/
def WaitCounted (s t : State) : Prop :=
  t.waitsGiven = s.waitsGiven ∨ t.waitsGiven = s.waitsGiven + t.busReply.wait.toNat

/-- A bus cycle that left the block in `s` but for its reply ended in `t`. -/
structure BusServed (s t : State) : Prop where
  frame : CycleFrame s t
  waits : WaitCounted s t

/-- What was done before the reply without giving a wait is part of the cycle. -/
theorem BusServed.after {s t u : State} (h : BusServed u t) (hu : CycleFrame s u := by rfl)
    (hw : u.waitsGiven = s.waitsGiven := by rfl) : BusServed s t :=
  ⟨h.frame.after hu, by have := h.waits; rwa [WaitCounted, hw] at this⟩

theorem BusServed.raise (b : FaultBit) (s : State) : BusServed s (raise b s) := by
  unfold Machine.raise
  split <;> exact ⟨rfl, .inl rfl⟩

theorem BusServed.busFault (b : FaultBit) (s : State) : BusServed s (busFault b s) :=
  (BusServed.raise b { s with busReply := BusReply.zero }).after

theorem BusServed.busAnswer (w : BitVec 32) (l : Bool) (v : Byte) (s : State) : BusServed s (busAnswer w l v s) :=
  ⟨rfl, .inr rfl⟩

theorem BusServed.withWait (wait : Option (BitVec 32)) {f : BitVec 32 → State → State} {s : State}
    (hf : ∀ w, BusServed s (f w s)) : BusServed s (withWait wait f s) := by
  obtain ⟨w, -, he⟩ | ⟨-, he⟩ := withWait_cases wait f s
  · rw [he]; exact hf w
  · rw [he]; exact BusServed.busFault .config s

theorem BusServed.answerMem (wait : Option (BitVec 32)) (v : Byte) (s : State) : BusServed s (answerMem wait v s) :=
  BusServed.withWait wait fun w => BusServed.busAnswer w false v s

/-- A bus word is answered without its cycle, or the cycle is served (R194, R412). -/
theorem busCycle_served_or (ts : Stamp) (f : CpuCall → State → State) (s : State) :
    BusServed s (busCycle ts f s) ∨ ∃ c, busCycle ts f s = f c (s.atBus ts) := by
  obtain ⟨-, he⟩ | ⟨-, he⟩ | ⟨-, he⟩ | ⟨-, -, c, -, -, he⟩ := busCycle_cases ts f s
  · rw [he]; exact .inl ⟨rfl, .inl rfl⟩
  · rw [he]; exact .inl (BusServed.busFault .tsOrder { s with busUsed := true }).after
  · rw [he]; exact .inl (BusServed.busFault .cpuFault s)
  · exact .inr ⟨c, he⟩

theorem BusServed.busCycle (ts : Stamp) {f : CpuCall → State → State} {s : State}
    (hf : ∀ c, BusServed (s.atBus ts) (f c (s.atBus ts))) : BusServed s (busCycle ts f s) := by
  obtain h | ⟨c, he⟩ := busCycle_served_or ts f s
  · exact h
  · rw [he]; exact (hf c).after

theorem BusServed.readByte (a : Addr) (ts : Stamp) (s : State) :
    BusServed s (Machine.answerMem (memWait a ts (memRead a s).2) (memRead a s).1 (memRead a s).2) :=
  (BusServed.answerMem _ _ _).after (by rw [memRead_frame]; rfl) (by rw [memRead_frame])

/-! The calls of a device (R331, R354). -/

/-- The device call of a cycle that left the block in `s` stands in `t`: it gives a wait only as it returns to the CPU. -/
def DeviceCalled (s t : State) : Prop := BusServed s t ∧ ((∃ c, t.pend = .cpu c) ∨ t.waitsGiven = s.waitsGiven)

theorem deviceCalled_ioEvent (c : CpuCall) (d : Dir) (w : BitVec 32) (e : DevEvent) (s : State) :
    DeviceCalled s (ioEvent c d w e s) := by
  cases e with
  | command w' => exact ⟨BusServed.raise .reentrant s, .inr (raise_waitsGiven _ _)⟩
  | ret v claim =>
    unfold ioEvent
    dsimp only
    split
    · exact ⟨⟨rfl, .inl rfl⟩, .inl ⟨c, rfl⟩⟩
    · cases d <;> exact ⟨⟨rfl, .inr rfl⟩, .inl ⟨c, rfl⟩⟩

/-- What the device does before it returns is one cycle with its return (R331, R354). -/
theorem DeviceCalled.ioEvent {s t : State} (h : DeviceCalled s t) {c : CpuCall} {d : Dir} {w : BitVec 32}
    (hp : t.pend = .io c d w) (e : DevEvent) (es : List DevEvent) :
    DeviceCalled s (ioEvent c d w e { t with devIn := es }) := by
  obtain ⟨hserved, ⟨c', hcpu⟩ | hwaits⟩ := h
  · rw [hp] at hcpu
    cases hcpu
  · obtain ⟨he, hend⟩ := deviceCalled_ioEvent c d w e { t with devIn := es }
    exact ⟨he.after (CycleFrame.after (u := t) rfl hserved.frame) hwaits, hend.imp_right (·.trans hwaits)⟩

theorem BusServed.settleIoAll (s : State) : BusServed s (settleIoAll s) :=
  (settleIo_keeps (DeviceCalled s) (fun _ _ _ _ e es hp _ h => h.ioEvent hp e es) _ s ⟨⟨rfl, .inl rfl⟩, .inr rfl⟩).1

theorem BusServed.portRead (c : CpuCall) (p : Addr) (ts : Stamp) (w : BitVec 32) (s : State) :
    BusServed s (portRead c p ts w s) := by
  unfold Machine.portRead
  split
  · next r _ => cases r <;> exact ⟨rfl, .inr rfl⟩
  · split
    · exact (BusServed.settleIoAll _).after
    · exact ⟨rfl, .inr rfl⟩

/-! IO_WRITE (R345, R353). -/

/-- `s` with the chipset registers, the bank table and the log of `t`. -/
def State.withChipsetOf (s t : State) : State :=
  { s with border := t.border, earmic := t.earmic, paging := t.paging, mode := t.mode, hsr := t.hsr, slots := t.slots,
           logs := t.logs, lastLogTs := t.lastLogTs }

/-- The chipset that a cycle's write left in `u` stands to the end of the cycle. -/
theorem BusServed.withChipset {s u t : State} (h : BusServed u t) (hu : u = s.withChipsetOf u := by rfl) :
    BusServed (s.withChipsetOf t) t := by
  have hsame : s.withChipsetOf t = u := by rw [show t = _ from h.frame]; exact hu.symm
  rwa [hsame]

theorem BusServed.afterChipset {s u t : State} (h : BusServed u t) (hu : CycleFrame (s.withChipsetOf u) u)
    (hw : u.waitsGiven = s.waitsGiven) : BusServed (s.withChipsetOf t) t := (h.after hu hw).withChipset

theorem chipsetWrite_frame (p : Addr) (v : Byte) (ts : Stamp) (s : State) :
    CycleFrame (s.withChipsetOf (chipsetWrite p v ts s)) (chipsetWrite p v ts s) := by
  unfold CycleFrame State.withChipsetOf
  apply State.ext <;> simp

theorem BusServed.answerWrite (w : BitVec 32) (s : State) : BusServed s (answerWrite w s) := by
  unfold Machine.answerWrite
  split
  · exact ⟨rfl, .inl rfl⟩
  · exact ⟨rfl, .inr rfl⟩

theorem BusServed.portWrite (c : CpuCall) (p : Addr) (v : Byte) (ts : Stamp) (w : BitVec 32) (s : State) :
    BusServed (s.withChipsetOf (portWrite c p v ts w s)) (portWrite c p v ts w s) := by
  unfold Machine.portWrite
  split
  · exact (BusServed.answerWrite w _).afterChipset (chipsetWrite_frame p v ts s) (chipsetWrite_waitsGiven p v ts s)
  · split
    · exact ((BusServed.settleIoAll _).after (s := s)).withChipset
    · exact (BusServed.busAnswer ..).withChipset

theorem BusServed.serveIoWrite (v : Byte) (p : Addr) (ts : Stamp) (s : State) :
    BusServed (s.withChipsetOf (serveIoWrite v p ts s)) (serveIoWrite v p ts s) := by
  obtain h | ⟨c, he⟩ :=
    busCycle_served_or ts (fun c s => Machine.withWait (ioWait p ts s) (Machine.portWrite c p v ts) s) s
  · exact h.withChipset
  · rw [Machine.serveIoWrite, he]
    obtain ⟨w, -, hw⟩ | ⟨-, hw⟩ := withWait_cases (ioWait p ts (s.atBus ts)) (Machine.portWrite c p v ts) (s.atBus ts)
    · rw [hw]; exact (BusServed.portWrite c p v ts w (s.atBus ts)).after
    · rw [hw]; exact ((BusServed.busFault .config (s.atBus ts)).after (s := s)).withChipset

/-! MEM_WRITE (R263). -/

/-- The RAM that a cycle's write left in `u` stands to the end of the cycle. -/
theorem BusServed.withRam {s u t : State} (h : BusServed u t) (hu : u = { s with ram := u.ram } := by rfl) :
    BusServed { s with ram := t.ram } t := by
  have hsame : { s with ram := t.ram } = u := by rw [show t = _ from h.frame]; exact hu.symm
  rwa [hsame]

theorem BusServed.ramByte {s t : State} (h : BusServed s t) (b : Nat) : ramByte t b = ramByte s b := by
  rw [show t = _ from h.frame]
  rfl

/-- MEM_WRITE is answered unperformed, or after its write (R263, R412). -/
theorem serveMemWrite_cases (v : Byte) (a : Addr) (ts : Stamp) (s : State) :
    BusServed s (serveMemWrite v a ts s) ∨ BusServed (memWrite a v s) (serveMemWrite v a ts s) := by
  obtain h | ⟨c, he⟩ := busCycle_served_or ts (fun _ s => answerMem (memWait a ts s) 0 (memWrite a v s)) s
  · exact .inl h
  · rw [serveMemWrite, he, memWrite_atBus]
    exact .inr (BusServed.answerMem _ _ _).after

theorem BusServed.serveMemWrite (v : Byte) (a : Addr) (ts : Stamp) (s : State) :
    BusServed { s with ram := (serveMemWrite v a ts s).ram } (serveMemWrite v a ts s) := by
  obtain h | h := serveMemWrite_cases v a ts s
  · exact h.withRam
  · exact h.withRam (memWrite_frame a v s)

/-- MEM_WRITE leaves every byte but the addressed one (R81). -/
theorem ramByte_serveMemWrite_other (v : Byte) {a : Addr} (ts : Stamp) {s : State} {b : Nat} (hb : b ≠ s.byteAt a) :
    ramByte (serveMemWrite v a ts s) b = ramByte s b := by
  obtain h | h := serveMemWrite_cases v a ts s
  · exact h.ramByte b
  · rw [h.ramByte b, ramByte_memWrite_other v hb]

/-! Every bus cycle, by what it may write. -/

theorem serveBus_served {i : Instr} (hio : ∀ v p ts, i ≠ .ioWrite v p ts) (hmem : ∀ v a ts, i ≠ .memWrite v a ts)
    (s : State) : BusServed s (serveBus i s) := by
  cases i with
  | fetch a ts => exact (BusServed.busCycle ts fun _ => BusServed.readByte a ts _ : BusServed s (serveFetch a ts s))
  | memRead a ts => exact (BusServed.busCycle ts fun _ => BusServed.readByte a ts _ : BusServed s (serveMemRead a ts s))
  | memWrite v a ts => exact absurd rfl (hmem v a ts)
  | ioRead p ts => exact BusServed.busCycle ts fun c => BusServed.withWait _ fun w => BusServed.portRead c p ts w _
  | ioWrite v p ts => exact absurd rfl (hio v p ts)
  | contend a ts => exact BusServed.busCycle ts fun _ => BusServed.answerMem _ 0 _
  | intSample ts => exact BusServed.busCycle ts fun _ => BusServed.busAnswer 0 _ 0 _
  | intAck a ts =>
    exact (BusServed.busCycle ts fun _ => (BusServed.busAnswer 0 false _ (drawFloating _).2).after :
      BusServed s (serveIntAck ts s))
  | _ => exact ⟨rfl, .inl rfl⟩

/-- Beside the frame, a cycle other than IO_WRITE changes the RAM at most (R263). -/
theorem serveBus_served_withRam {i : Instr} (hio : ∀ v p ts, i ≠ .ioWrite v p ts) (s : State) :
    BusServed { s with ram := (serveBus i s).ram } (serveBus i s) := by
  by_cases hmem : ∀ v a ts, i ≠ .memWrite v a ts
  · exact (serveBus_served hio hmem s).withRam
  · push Not at hmem
    obtain ⟨v, a, ts, rfl⟩ := hmem
    exact BusServed.serveMemWrite v a ts s

/-- Beside the frame, a cycle other than MEM_WRITE changes the chipset at most (R90). -/
theorem serveBus_served_withChipset {i : Instr} (hmem : ∀ v a ts, i ≠ .memWrite v a ts) (s : State) :
    BusServed (s.withChipsetOf (serveBus i s)) (serveBus i s) := by
  by_cases hio : ∀ v p ts, i ≠ .ioWrite v p ts
  · exact (serveBus_served hio hmem s).withChipset
  · push Not at hio
    obtain ⟨v, p, ts, rfl⟩ := hio
    exact BusServed.serveIoWrite v p ts s

theorem serveBus_served_withBoth (i : Instr) (s : State) :
    BusServed { s.withChipsetOf (serveBus i s) with ram := (serveBus i s).ram } (serveBus i s) := by
  by_cases hmem : ∀ v a ts, i ≠ .memWrite v a ts
  · exact (serveBus_served_withChipset hmem s).withRam (s := s.withChipsetOf (serveBus i s))
  · push Not at hmem
    obtain ⟨v, a, ts, rfl⟩ := hmem
    exact (BusServed.serveMemWrite v a ts s).withChipset (s := { s with ram := (serveMemWrite v a ts s).ram })

/-- Settles O60: the frame of every cycle, of those that leave the chipset, of those that leave the RAM, and MEM_WRITE's
bytes. -/
theorem busFrame : Obligations.BusFrame := by
  intro s t i hi h
  rw [exec_of_bus hi] at h
  obtain rfl := onBus_eq_next h
  refine ⟨?_, (serveBus_served_withBoth i s).waits, fun hio => ?_, fun hmem => ?_, ?_⟩
  · rw [show serveBus i s = _ from (serveBus_served_withBoth i s).frame]
    exact ⟨rfl, rfl, rfl, rfl, rfl, rfl, rfl, rfl, rfl, rfl, rfl, rfl, rfl, rfl⟩
  · rw [show serveBus i s = _ from (serveBus_served_withRam hio s).frame]
    exact ⟨rfl, rfl, rfl, rfl, rfl, rfl, rfl, rfl⟩
  · rw [show serveBus i s = _ from (serveBus_served_withChipset hmem s).frame]
    rfl
  · rintro v a ts rfl b hb
    exact ramByte_serveMemWrite_other v ts hb

end Sys2Proof.Machine

namespace Sys2Proof.Machine

/-! The bytes of a word (R76). -/

theorem leBytes_succ (n v : Nat) : leBytes (n + 1) v = BitVec.ofNat 8 v :: leBytes n (v / 256) := by
  simp only [leBytes, List.range_succ_eq_map, List.map_cons, List.map_map]
  refine congrArg₂ _ rfl (List.map_congr_left fun i _ => congrArg (BitVec.ofNat 8) ?_)
  show v >>> (8 * (i + 1)) = (v / 2 ^ 8) >>> (8 * i)
  rw [← Nat.shiftRight_eq_div_pow, ← Nat.shiftRight_add]
  congr 1
  omega

/-- `n` bytes keep a number below `256 ^ n` (R76). -/
theorem leNat_leBytes (n v : Nat) : leNat (leBytes n v) = v % 256 ^ n := by
  induction n generalizing v with
  | zero => simp [leBytes, leNat, Nat.mod_one]
  | succ n ih =>
    calc leNat (leBytes (n + 1) v)
      _ = v % 256 + 256 * (v / 256 % 256 ^ n) := by rw [leBytes_succ, leNat, ih, BitVec.toNat_ofNat]
      _ = v % 256 ^ (n + 1) := by rw [Nat.pow_succ', ← Nat.mod_mul]

/-- The byte decoder reads a word as its channel's decoder does (R76, R110). -/
theorem decode_wordBytes (w : Word) : decode (wordBytes w) = decodeWord w := by
  cases w with
  | host w =>
    have hw : BitVec.ofNat 32 (leNat (leBytes 4 w.toNat)) = w := by
      rw [leNat_leBytes, Nat.mod_eq_of_lt (show w.toNat < 256 ^ 4 from w.isLt), BitVec.ofNat_toNat,
        BitVec.setWidth_eq]
    exact congrArg decodeHost hw
  | bus w =>
    have hw : BitVec.ofNat 64 (leNat (leBytes 8 w.toNat)) = w := by
      rw [leNat_leBytes, Nat.mod_eq_of_lt (show w.toNat < 256 ^ 8 from w.isLt), BitVec.ofNat_toNat,
        BitVec.setWidth_eq]
    exact congrArg decodeBus hw

/-! The fields of a host word (R111). -/

theorem hostWord_toNat (opc sub : BitVec 8) (arg : BitVec 16) :
    (hostWord opc sub arg).toNat = 2 ^ 24 * opc.toNat + 2 ^ 16 * sub.toNat + arg.toNat := by
  simp only [hostWord, append_toNat]
  omega

/-- A field of a word, as a number (R111, R115). -/
theorem extract_toNat {n : Nat} (w : BitVec n) (i k : Nat) : (w.extractLsb' i k).toNat = w.toNat / 2 ^ i % 2 ^ k := by
  rw [BitVec.extractLsb'_toNat, Nat.shiftRight_eq_div_pow]

theorem extract_eq_iff {n k : Nat} {w : BitVec n} {i : Nat} {v : BitVec k} :
    w.extractLsb' i k = v ↔ w.toNat / 2 ^ i % 2 ^ k = v.toNat := by
  rw [← BitVec.toNat_inj, extract_toNat]

section
variable (opc sub : BitVec 8) (arg : BitVec 16)

theorem hostWord_opc : (hostWord opc sub arg).toNat / 2 ^ 24 = opc.toNat := by
  have := sub.isLt; have := arg.isLt
  rw [hostWord_toNat]
  omega

theorem hostWord_sub : (hostWord opc sub arg).toNat / 2 ^ 16 % 256 = sub.toNat := by
  have := sub.isLt; have := arg.isLt
  rw [hostWord_toNat]
  omega

theorem hostWord_arg : (hostWord opc sub arg).toNat % 65536 = arg.toNat := by
  have := arg.isLt
  rw [hostWord_toNat]
  omega

/-- The decoder reads the three fields (R111). -/
theorem decodeHost_hostWord : decodeHost (hostWord opc sub arg) = decodeHostFields opc sub arg := by
  have hopc : (hostWord opc sub arg).extractLsb' 24 8 = opc := by
    rw [extract_eq_iff, hostWord_opc, Nat.mod_eq_of_lt opc.isLt]
  have hsub : (hostWord opc sub arg).extractLsb' 16 8 = sub := extract_eq_iff.2 (hostWord_sub opc sub arg)
  have harg : (hostWord opc sub arg).extractLsb' 0 16 = arg := by
    rw [extract_eq_iff, Nat.pow_zero, Nat.div_one]
    exact hostWord_arg opc sub arg
  rw [decodeHost, hopc, hsub, harg]

end

/-- Every host word is the word of its fields (R111). -/
theorem exists_hostWord (w : HostWord) : ∃ opc sub arg, w = hostWord opc sub arg := by
  refine ⟨w.extractLsb' 24 8, w.extractLsb' 16 8, w.extractLsb' 0 16, BitVec.eq_of_toNat_eq ?_⟩
  have := w.isLt
  simp only [hostWord_toNat, extract_toNat]
  omega

/-! A flag in SUB and a byte in ARG (R112). -/

theorem flagClear_iff (sub : BitVec 8) : sub.extractLsb' 1 7 = 0#7 ↔ sub.toNat < 2 := by
  have := sub.isLt
  rw [extract_eq_iff, BitVec.toNat_zero]
  omega

theorem byteClear_iff (arg : BitVec 16) : arg.extractLsb' 8 8 = 0#8 ↔ arg.toNat < 256 := by
  have := arg.isLt
  rw [extract_eq_iff, BitVec.toNat_zero]
  omega

theorem flagByte_clear (b : Bool) : (flagByte b).extractLsb' 1 7 = 0#7 := by cases b <;> rfl

theorem flagByte_flag (b : Bool) : (flagByte b)[0] = b := by cases b <;> rfl

theorem flagByte_getLsbD {sub : BitVec 8} (h : sub.extractLsb' 1 7 = 0#7) : flagByte (sub.getLsbD 0) = sub := by
  revert h sub
  decide

theorem argOfByte_toNat (v : BitVec 8) : (argOfByte v).toNat = v.toNat := by
  rw [argOfByte, append_toNat]
  exact Nat.zero_add _

theorem argOfByte_clear (v : BitVec 8) : (argOfByte v).extractLsb' 8 8 = 0#8 :=
  (byteClear_iff _).2 (by rw [argOfByte_toNat]; exact v.isLt)

theorem argOfByte_byte (v : BitVec 8) : (argOfByte v).extractLsb' 0 8 = v := by
  rw [extract_eq_iff, argOfByte_toNat, Nat.pow_zero, Nat.div_one, Nat.mod_eq_of_lt v.isLt]

theorem argOfByte_extract {arg : BitVec 16} (h : arg.extractLsb' 8 8 = 0#8) :
    argOfByte (arg.extractLsb' 0 8) = arg := by
  have := (byteClear_iff arg).1 h
  rw [← BitVec.toNat_inj, argOfByte_toNat, extract_toNat]
  omega

/-! The host channel's table (R112, R113). -/

theorem requireZero_iff {ok : Bool} {i j : Instr} : requireZero ok j = .ok i ↔ ok = true ∧ j = i := by
  cases ok <;> simp [requireZero]

theorem eq_ofNat_of_toNat {n k : Nat} {v : BitVec n} (h : v.toNat = k) : v = BitVec.ofNat n k := by
  rw [← h, BitVec.ofNat_toNat, BitVec.setWidth_eq]

/-- What the fields of a word decode to has that word, and is well formed. -/
theorem encode_of_decodeHostFields {opc sub : BitVec 8} {arg : BitVec 16} {i : Instr}
    (h : decodeHostFields opc sub arg = .ok i) : encode i = .host (hostWord opc sub arg) ∧ i.wellFormed = true := by
  simp only [decodeHostFields] at h
  split at h
  case h_17 => cases h
  all_goals
    rename_i hopc
    obtain rfl := eq_ofNat_of_toNat hopc
    simp only [requireZero_iff, Bool.and_eq_true, beq_iff_eq, Except.ok.injEq] at h
  case h_1 | h_2 | h_5 | h_14 | h_15 => obtain ⟨⟨rfl, rfl⟩, rfl⟩ := h; exact ⟨rfl, rfl⟩
  case h_3 | h_4 => obtain ⟨⟨hsub, rfl⟩, rfl⟩ := h; exact ⟨by rw [encode, flagByte_getLsbD hsub]; rfl, rfl⟩
  case h_6 =>
    obtain ⟨⟨hsub, harg⟩, rfl⟩ := h
    exact ⟨by rw [encode, flagByte_getLsbD hsub, argOfByte_extract harg]; rfl, rfl⟩
  case h_7 | h_8 | h_10 => obtain ⟨harg, rfl⟩ := h; exact ⟨by rw [encode, argOfByte_extract harg]; rfl, rfl⟩
  case h_9 => subst h; exact ⟨rfl, rfl⟩
  case h_11 =>
    split at h
    · cases h
    · next htag =>
      cases h
      exact ⟨rfl, bne_iff_ne.2 htag⟩
  case h_12 | h_13 | h_16 => obtain ⟨rfl, rfl⟩ := h; exact ⟨rfl, rfl⟩

/-- The fields that decode are those of a row of the table (R112, R113). -/
theorem decodeHostFields_isOk (opc sub : BitVec 8) (arg : BitVec 16) :
    (∃ i, decodeHostFields opc sub arg = .ok i) ↔ HostWordSpelled (hostWord opc sub arg) := by
  have hsub : sub = 0#8 ↔ sub.toNat = 0 := BitVec.toNat_inj.symm
  have harg : arg = 0#16 ↔ arg.toNat = 0 := BitVec.toNat_inj.symm
  simp only [HostWordSpelled, hostWord_opc, hostWord_sub, hostWord_arg, decodeHostFields]
  split
  case h_17 => simp_all
  all_goals
    rename_i hopc
    simp [hopc, requireZero_iff, hsub, harg, flagClear_iff, byteClear_iff, Nat.lt_succ_iff]
  case h_11 => by_cases htag : arg.toNat = 0 <;> simp [htag]

/-! The fields of a bus word (R115). -/

theorem busWord_toNat (kind : BitVec 4) (data : Byte) (addr : Addr) (ts : Stamp) :
    (busWord kind data addr ts).toNat = 2 ^ 60 * kind.toNat + 2 ^ 48 * data.toNat + 2 ^ 32 * addr.toNat + ts.toNat := by
  simp only [busWord, append_toNat, show (0 : BitVec 4).toNat = 0 from rfl]
  omega

section
variable (kind : BitVec 4) (data : Byte) (addr : Addr) (ts : Stamp)

theorem busWord_kind : (busWord kind data addr ts).toNat / 2 ^ 60 = kind.toNat := by
  have := data.isLt; have := addr.isLt; have := ts.isLt
  rw [busWord_toNat]
  omega

theorem busWord_pad : (busWord kind data addr ts).toNat / 2 ^ 56 % 16 = 0 := by
  have := data.isLt; have := addr.isLt; have := ts.isLt
  rw [busWord_toNat]
  omega

theorem busWord_data : (busWord kind data addr ts).toNat / 2 ^ 48 % 256 = data.toNat := by
  have := data.isLt; have := addr.isLt; have := ts.isLt
  rw [busWord_toNat]
  omega

theorem busWord_addr : (busWord kind data addr ts).toNat / 2 ^ 32 % 65536 = addr.toNat := by
  have := addr.isLt; have := ts.isLt
  rw [busWord_toNat]
  omega

theorem busWord_ts : (busWord kind data addr ts).toNat % 2 ^ 32 = ts.toNat := by
  have := ts.isLt
  rw [busWord_toNat]
  omega

/-- The decoder reads the four fields (R115). -/
theorem decodeBus_busWord : decodeBus (busWord kind data addr ts) = decodeBusFields kind data addr ts := by
  have hpad : (busWord kind data addr ts).extractLsb' 56 4 = 0 := extract_eq_iff.2 (busWord_pad kind data addr ts)
  have hkind : (busWord kind data addr ts).extractLsb' 60 4 = kind := by
    rw [extract_eq_iff, busWord_kind, Nat.mod_eq_of_lt kind.isLt]
  have hdata : (busWord kind data addr ts).extractLsb' 48 8 = data := extract_eq_iff.2 (busWord_data kind data addr ts)
  have haddr : (busWord kind data addr ts).extractLsb' 32 16 = addr := extract_eq_iff.2 (busWord_addr kind data addr ts)
  have hts : (busWord kind data addr ts).extractLsb' 0 32 = ts := by
    rw [extract_eq_iff, Nat.pow_zero, Nat.div_one, busWord_ts]
  rw [decodeBus, hpad, hkind, hdata, haddr, hts]
  rfl

end

/-- A bus word is the word of its fields, or its bits 59:56 are not 0 and it spells nothing (R115, R117). -/
theorem busWord_cases (w : BusWord) : (∃ kind data addr ts, w = busWord kind data addr ts) ∨
    (w.toNat / 2 ^ 56 % 16 ≠ 0 ∧ decodeBus w = .error .busMustBeZero) := by
  by_cases hpad : w.toNat / 2 ^ 56 % 16 = 0
  · refine .inl ⟨w.extractLsb' 60 4, w.extractLsb' 48 8, w.extractLsb' 32 16, w.extractLsb' 0 32,
      BitVec.eq_of_toNat_eq ?_⟩
    have := w.isLt
    simp only [busWord_toNat, extract_toNat]
    omega
  · exact .inr ⟨hpad, if_neg fun h => hpad (extract_eq_iff.1 (eq_of_beq h))⟩

/-! The bus channel's table (R116, R117). -/

theorem requireNoData_iff {data : Byte} {i j : Instr} : requireNoData data j = .ok i ↔ data = 0#8 ∧ j = i := by
  by_cases h : data = 0#8 <;> simp [requireNoData, h]

/-- What the fields of a bus word decode to has that word, and is well formed. -/
theorem encode_of_decodeBusFields {kind : BitVec 4} {data : Byte} {addr : Addr} {ts : Stamp} {i : Instr}
    (h : decodeBusFields kind data addr ts = .ok i) :
    encode i = .bus (busWord kind data addr ts) ∧ i.wellFormed = true := by
  simp only [decodeBusFields] at h
  split at h
  case h_9 => cases h
  all_goals
    rename_i hkind
    obtain rfl := eq_ofNat_of_toNat hkind
    simp only [requireNoData_iff, beq_iff_eq, Except.ok.injEq] at h
  case h_1 | h_2 | h_4 | h_6 | h_8 => obtain ⟨rfl, rfl⟩ := h; exact ⟨rfl, rfl⟩
  case h_3 | h_5 => subst h; exact ⟨rfl, rfl⟩
  case h_7 =>
    split at h
    · next haddr =>
      obtain ⟨rfl, rfl⟩ := requireNoData_iff.1 h
      subst haddr
      exact ⟨rfl, rfl⟩
    · cases h

/-- The fields that decode are those of a row of the table (R116, R117). -/
theorem decodeBusFields_isOk (kind : BitVec 4) (data : Byte) (addr : Addr) (ts : Stamp) :
    (∃ i, decodeBusFields kind data addr ts = .ok i) ↔ BusWordSpelled (busWord kind data addr ts) := by
  have hdata : data = 0#8 ↔ data.toNat = 0 := BitVec.toNat_inj.symm
  have haddr : addr = 0#16 ↔ addr.toNat = 0 := BitVec.toNat_inj.symm
  simp only [BusWordSpelled, busWord_kind, busWord_pad, busWord_data, busWord_addr, decodeBusFields]
  split
  case h_9 => simp_all
  all_goals
    rename_i hkind
    simp [hkind, requireNoData_iff, hdata, haddr]
  case h_7 => by_cases h : addr.toNat = 0 <;> simp [h, requireNoData_iff, hdata]

/-! Both channels. -/

theorem decodeWord_encode {i : Instr} (h : i.wellFormed = true) : decodeWord (encode i) = .ok i := by
  cases i
  case attach parent tag =>
    have htag : tag ≠ 0#16 := bne_iff_ne.1 h
    simp [encode, decodeWord, decodeHost_hostWord, decodeHostFields, htag]
  all_goals simp [encode, decodeWord, decodeHost_hostWord, decodeHostFields, requireZero, flagByte_clear, flagByte_flag,
    argOfByte_clear, argOfByte_byte, decodeBus_busWord, decodeBusFields, requireNoData]

/-- Settles O8: the word's fields are the operation's, and the bytes of a word are read as the word is. -/
theorem decodeEncode : Obligations.DecodeEncode := fun i hi =>
  ⟨decodeWord_encode hi, (decode_wordBytes (encode i)).trans (decodeWord_encode hi)⟩

/-- Settles O9: a word is the word of its fields, and row by row the fields are those of what they decode to. -/
theorem encodeDecode : Obligations.EncodeDecode := by
  intro w i h
  cases w with
  | host w =>
    obtain ⟨opc, sub, arg, rfl⟩ := exists_hostWord w
    exact encode_of_decodeHostFields ((decodeHost_hostWord opc sub arg).symm.trans h)
  | bus w =>
    obtain ⟨kind, data, addr, ts, rfl⟩ | ⟨-, hbad⟩ := busWord_cases w
    · exact encode_of_decodeBusFields ((decodeBus_busWord kind data addr ts).symm.trans h)
    · cases hbad.symm.trans h

/-! The words that spell nothing (R113, R117). -/

theorem decodeHost_isOk (w : HostWord) : (∃ i, decodeHost w = .ok i) ↔ HostWordSpelled w := by
  obtain ⟨opc, sub, arg, rfl⟩ := exists_hostWord w
  rw [decodeHost_hostWord, decodeHostFields_isOk]

theorem decodeBus_isOk (w : BusWord) : (∃ i, decodeBus w = .ok i) ↔ BusWordSpelled w := by
  obtain ⟨kind, data, addr, ts, rfl⟩ | ⟨hpad, hbad⟩ := busWord_cases w
  · rw [decodeBus_busWord, decodeBusFields_isOk]
  · exact iff_of_false (fun ⟨i, h⟩ => nomatch hbad.symm.trans h) fun h => hpad h.1

/-- A decoder that reads no operation rejects by name. -/
theorem exists_error {x : Except Reject Instr} (h : ¬ ∃ i, x = .ok i) : ∃ e, x = .error e := by
  cases x with
  | ok i => exact absurd ⟨i, rfl⟩ h
  | error e => exact ⟨e, rfl⟩

/-- A host word that spells no command is accepted as illegal with the word taken (R113). -/
theorem step_host_illegal {s : State} {w : HostWord} {p : Payload} {rest : List HostInput} {e : Reject}
    (hp : s.pend = .idle) (hq : s.hostIn = ⟨w, p⟩ :: rest) (hd : decodeHost w = .error e) :
    step s = .next (acceptIllegal { s with hostIn := rest, payload := p }) := by
  simp [step, fetchNext, fetchHost, hp, hq, hd]

/-- A bus word that spells no cycle faults with the word taken (R117). -/
theorem step_bus_bad {s : State} {c : CpuCall} {w : BusWord} {rest : List CpuEvent} {e : Reject} (hp : s.pend = .cpu c)
    (hq : s.cpuIn = .bus w :: rest) (hd : decodeBus w = .error e) :
    step s = .next (badBusWord { s with cpuIn := rest }) := by
  simp [step, fetchNext, fetchCpu, hp, hq, hd]

theorem accept_illegal {f : State → State} {s : State} (h : s.Ready) : accept false f s = s.refusedReply := by
  simp [accept, h.1, h.2]
  rfl

/-- Settles O10: the fields decide, and any other word is accepted as illegal. -/
theorem hostWords : Obligations.HostWords := by
  refine fun w => ⟨decodeHost_isOk w, fun hw s p rest hp hr hq => ?_⟩
  obtain ⟨e, he⟩ := exists_error (mt (decodeHost_isOk w).1 hw)
  rw [step_host_illegal hp hq he]
  exact congrArg _ (accept_illegal (s := { s with hostIn := rest, payload := p }) hr)

/-- Settles O11: the fields decide, and any other word raises CPU_FAULT in the call that carries it. -/
theorem busWords : Obligations.BusWords := by
  refine fun w => ⟨decodeBus_isOk w, fun hw s rest hs hq => ?_⟩
  obtain ⟨e, he⟩ := exists_error (mt (decodeBus_isOk w).1 hw)
  have hbad : badBusWord { s with cpuIn := rest }
      = State.withFault .cpuFault { s with cpuIn := rest, busReply := ⟨0, false, 0⟩ } :=
    raise_eq_withFault (s := { s with cpuIn := rest, busReply := BusReply.zero }) hs.1
  obtain ⟨c, hp⟩ : ∃ c, s.pend = .cpu c := by
    obtain ⟨b, hp⟩ | ⟨b, hp⟩ := hs.2 <;> exact ⟨_, hp⟩
  rw [step_bus_bad hp hq he, hbad]

/-- Settles O12: each word is that of its operation. -/
theorem sampleWords : Obligations.SampleWords := by
  unfold Obligations.SampleWords
  decide

end Sys2Proof.Machine

namespace Sys2Proof.Machine

/-! IO_READ: the chipset's port, the first claimant, the free byte (R333, R334, R345, R351, R352). -/

/-- In a step or an NMI entry IO_READ is charged its wait, then reads the port (R352). -/
theorem exec_ioRead {s : State} {p : Addr} {ts : Stamp} (hs : s.Serving) (ht : s.StampOk ts) :
    ∃ c, s.pend = .cpu c ∧
      exec (.ioRead p ts) s = .next (waited ts (ioDelay s p ts) s fun w => portRead c p ts w (s.atBus ts)) := by
  obtain ⟨c, hp, hc⟩ := busCycle_serving (fun c s => withWait (ioWait p ts s) (portRead c p ts) s) hs ht
  have hwait : ioWait p ts (s.atBus ts) = waitOf (ioDelay s p ts) := ioWait_eq p ts (s.atBus ts)
  refine ⟨c, hp, ?_⟩
  simp only [exec, execIoRead, onBus_serving _ hs, serveIoRead, hc, hwait, withWait_atBus hs.1]

section
variable {c : Cfg} {p : Addr}

/-- The ULA's port on SCLD is neither MODE's nor HSR's (R134). -/
theorem ulaPort_of_scldPort {v : Variant} {low : Nat} (h : scldPort v low p = true) (hlow : low ≠ 0xFE) :
    ulaPort v p = false := by
  obtain rfl := scldPort_variant h
  simp only [scldPort, Bool.and_eq_true, decide_eq_true_eq] at h
  exact decide_eq_false fun hu => hlow (h.2.symm.trans hu)

theorem readableReg_ula (h : ulaPort c.variant p = true) : readableReg c p = some .ula := by
  simp [readableReg, portMatches_ula, h]

theorem readableReg_mode (h : (scldPort c.variant 0xFF p && c.scldPortReadback) = true) :
    readableReg c p = some .mode := by
  obtain ⟨hport, hback⟩ := Bool.and_eq_true_iff.1 h
  simp [readableReg, portMatches_ula, portMatches_mode, ulaPort_of_scldPort hport (by decide), hport, hback]

theorem readableReg_hsr (h : (scldPort c.variant 0xF4 p && c.scldPortReadback) = true) :
    readableReg c p = some .hsr := by
  obtain ⟨hport, hback⟩ := Bool.and_eq_true_iff.1 h
  have hmode : scldPort c.variant 0xFF p = false :=
    Bool.eq_false_iff.2 fun hm => Bool.false_ne_true ((scldPort_hsr_of_mode hm).symm.trans hport)
  simp [readableReg, portMatches_ula, portMatches_mode, portMatches_hsr, ulaPort_of_scldPort hport (by decide), hmode,
    hport, hback]

theorem readableReg_none (hu : ulaPort c.variant p = false)
    (hm : (scldPort c.variant 0xFF p && c.scldPortReadback) = false)
    (hh : (scldPort c.variant 0xF4 p && c.scldPortReadback) = false) : readableReg c p = none := by
  rw [Bool.and_comm] at hm hh
  simp [readableReg, portMatches_ula, portMatches_mode, portMatches_hsr, hu, hm, hh]

end

/-! The arbitration (R333 to R335). -/

theorem claimFrom_of_none {p : Addr} {d : Dir} {l : List Device} (h : ∀ x ∈ l, agentClaims x.agent p d = false)
    (n : Nat) : claimFrom p d n l = none := by
  induction l generalizing n with
  | nil => rfl
  | cons x xs ih =>
    rw [claimFrom, h x List.mem_cons_self]
    exact ih (fun y hy => h y (List.mem_cons_of_mem x hy)) (n + 1)

theorem claimFrom_of_first {p : Addr} {d : Dir} {l : List Device} {k : Nat} {x : Device} (hx : l[k]? = some x)
    (hclaim : agentClaims x.agent p d = true)
    (hfirst : ∀ j y, j < k → l[j]? = some y → agentClaims y.agent p d = false) (n : Nat) :
    claimFrom p d n l = some (n + k, x) := by
  induction l generalizing n k with
  | nil => cases hx
  | cons y ys ih =>
    cases k with
    | zero =>
      obtain rfl := Option.some.inj hx
      rw [claimFrom, hclaim]
      rfl
    | succ k =>
      rw [claimFrom, hfirst 0 y k.succ_pos rfl, ← Nat.add_assoc, Nat.add_right_comm]
      exact ih hx (fun j z hj hz => hfirst (j + 1) z (Nat.succ_lt_succ hj) hz) (n + 1)

theorem claimant_of_noClaim {s : State} {p : Addr} {d : Dir} (h : NoClaim s p d) : claimant s p d = none :=
  claimFrom_of_none h 0

theorem claimant_of_firstClaim {s : State} {p : Addr} {d : Dir} {k : Nat} {x : Device} (h : FirstClaim s p d k x) :
    claimant s p d = some (k, x) := by
  obtain ⟨hx, hclaim, hfirst⟩ := h
  rw [claimant, claimFrom_of_first hx hclaim hfirst, Nat.zero_add]

/-! What a read of the port answers (R334). -/

section
variable {s : State} {p : Addr} (c : CpuCall) (ts : Stamp) (w : BitVec 32)

theorem portRead_chipset {r : ChipReg} (h : readableReg s.cfg p = some r) :
    portRead c p ts w s = busAnswer w false (chipsetRead r s).1 (chipsetRead r s).2 := by
  simp [portRead, h]

theorem portRead_floating (h : readableReg s.cfg p = none) (hno : NoClaim s p .read) :
    portRead c p ts w s = busAnswer w false (drawFloating s).1 (drawFloating s).2 := by
  simp [portRead, h, claimant_of_noClaim hno]

/-- A device that returns at once from `read` gives the answer (R331, R352). -/
theorem settleIoAll_read {c : CpuCall} (hs : s.ctrl ≠ .faulted) (hp : s.pend = .cpu c) {v : Byte} {claim : Bool}
    {rest : List DevEvent} (hq : s.devIn = .ret v claim :: rest) (k id : Nat) (op : DevOp) :
    settleIoAll (askIo c .read w k id op s)
      = busAnswer w false v { s with calls := .dev k id op :: s.calls, devIn := rest } := by
  have hcalled : settleIoAll (askIo c .read w k id op s)
      = ioEvent c .read w (.ret v claim) { askIo c .read w k id op s with devIn := rest } :=
    settleIoAll_ret (s := askIo c .read w k id op s) rfl hq
  have hread : ioEvent c .read w (.ret v claim) { askIo c .read w k id op s with devIn := rest }
      = busAnswer w false v { askIo c .read w k id op s with devIn := rest, pend := .cpu c } := if_neg hs
  rw [hcalled, hread, ← hp]
  rfl

/-- The first claimant, and no other device, is called (R334). -/
theorem portRead_device (h : readableReg s.cfg p = none) {k : Nat} {x : Device} (hx : FirstClaim s p .read k x) :
    portRead c p ts w s = settleIoAll (askIo c .read w k x.agent.id (.read p ts) s) := by
  simp [portRead, h, claimant_of_firstClaim hx]

end

/-- Settles O56: the wait, then the port by what answers it. -/
theorem ioReadAnswers : Obligations.IoReadAnswers := by
  intro s p ts hs ht
  obtain ⟨c, hp, hexec⟩ := exec_ioRead (p := p) hs ht
  have answered : ∀ {done : BitVec 32 → State}, (∀ w, portRead c p ts w (s.atBus ts) = done w) →
      exec (.ioRead p ts) s = .next (waited ts (ioDelay s p ts) s done) := fun h => by rw [hexec, funext h]
  refine ⟨fun hu => answered fun w => ?_, fun hm => answered fun w => ?_, fun hh => answered fun w => ?_,
    fun hu hm hh => ⟨fun hno => answered fun w => ?_, fun k x v claim rest hx hq => answered fun w => ?_⟩⟩
  · rw [portRead_chipset c ts w (readableReg_ula (c := (s.atBus ts).cfg) hu)]; rfl
  · rw [portRead_chipset c ts w (readableReg_mode (c := (s.atBus ts).cfg) hm)]; rfl
  · rw [portRead_chipset c ts w (readableReg_hsr (c := (s.atBus ts).cfg) hh)]; rfl
  · rw [portRead_floating c ts w (readableReg_none (c := (s.atBus ts).cfg) hu hm hh) hno]; rfl
  · rw [portRead_device c ts w (readableReg_none (c := (s.atBus ts).cfg) hu hm hh) hx,
      settleIoAll_read w (s := s.atBus ts) hs.1 hp hq]
    rfl

end Sys2Proof.Machine

namespace Sys2Proof.Machine

/-! Numbers in a blob (R76, R136). -/

theorem numberAt_head {h : List Byte} {i n : Nat} (t : List Byte) (hn : i + n ≤ h.length) :
    numberAt (h ++ t) i n = numberAt h i n := by
  rw [numberAt, List.drop_append_of_le_length (by omega),
    List.take_append_of_le_length (by rw [List.length_drop]; omega)]
  rfl

theorem numberAt_leBytes {n v : Nat} (t : List Byte) (hv : v < 256 ^ n) : numberAt (leBytes n v ++ t) 0 n = v := by
  rw [numberAt_head t (by rw [length_leBytes, Nat.zero_add]), numberAt, List.drop_zero,
    List.take_of_length_le (length_leBytes n v).le, leNat_leBytes, Nat.mod_eq_of_lt hv]

/-- A number in a blob is one at the start of what follows its offset. -/
theorem numberAt_of_drop {b t : List Byte} {i n v : Nat} (h : b.drop i = leBytes n v ++ t) (hv : v < 256 ^ n) :
    numberAt b i n = v := by
  rw [← numberAt_leBytes t hv, ← h]
  rfl

/-- A byte of a blob, as the number of one byte. -/
theorem numberAt_byte {b : List Byte} {i : Nat} {v : Byte} (h : b[i]? = some v) : numberAt b i 1 = v.toNat := by
  obtain ⟨hi, rfl⟩ := List.getElem?_eq_some_iff.1 h
  rw [numberAt, List.drop_eq_getElem_cons hi]
  rfl

/-! The layout of the snapshot (R136). -/

/-- The snapshot up to the bank table: twenty-four bytes (R136). -/
def snapshotHead (s : State) : List Byte :=
  [1, variantTag s.cfg.variant, BitVec.ofNat 8 s.cfg.slotCount, 0] ++ leBytes 4 s.tsc.toNat ++ leBytes 8 s.frames.toNat
    ++ [s.border.setWidth 8, s.earmic.setWidth 8, if s.cfg.variant = .paged then s.paging.setWidth 8 else 0,
        if s.cfg.variant = .scld then s.mode else 0, if s.cfg.variant = .scld then s.hsr else 0, 0, 0, 0]

/-- The bank table of the snapshot (R136). -/
def snapshotTable (s : State) : List Byte :=
  (List.range s.cfg.slotCount).flatMap fun i => leBytes 2 (slotWord (slotEntry s.slots i)).toNat

/-- The RAM contents of the snapshot (R136). -/
def snapshotRam (s : State) : List Byte := (List.range (ramBytes s.cfg)).map (ramByte s)

theorem snapshot_eq (s : State) (cpu : List Byte) :
    snapshot s cpu = snapshotHead s ++ (snapshotTable s ++ (leBytes 4 (ramBytes s.cfg) ++
      (snapshotRam s ++ (leBytes 4 0 ++ (leBytes 4 cpu.length ++ cpu))))) := by
  simp only [snapshot, snapshotHead, snapshotTable, snapshotRam, List.append_assoc]

theorem length_snapshotHead (s : State) : (snapshotHead s).length = 24 := by simp [snapshotHead, length_leBytes]

theorem length_snapshotTable (s : State) : (snapshotTable s).length = 2 * s.cfg.slotCount := by
  simp [snapshotTable, length_leBytes, Nat.mul_comm]

theorem length_snapshotRam (s : State) : (snapshotRam s).length = ramBytes s.cfg := by simp [snapshotRam]

theorem length_snapshot (s : State) (cpu : List Byte) : (snapshot s cpu).length = cpuAt s.cfg + cpu.length := by
  simp only [snapshot_eq, List.length_append, length_snapshotHead, length_snapshotTable, length_snapshotRam,
    length_leBytes, cpuAt, cpuLenAt, dockLenAt, ramAt, ramLenAt]
  omega

/-- Chunks of one length lie at its multiples. -/
theorem drop_flatMap_of_length {α β : Type} {f : α → List β} {k : Nat} {l : List α}
    (h : ∀ x ∈ l, (f x).length = k) (i : Nat) : (l.flatMap f).drop (k * i) = (l.drop i).flatMap f := by
  induction l generalizing i with
  | nil => simp
  | cons x xs ih =>
    cases i with
    | zero => rfl
    | succ i =>
      have hx := h x List.mem_cons_self
      rw [List.flatMap_cons, Nat.mul_succ, Nat.add_comm, ← hx, List.drop_length_add_append, hx]
      exact ih (fun y hy => h y (List.mem_cons_of_mem x hy)) i

/-! The fields of the snapshot at their offsets (R136). -/

/-- The numbers of a record that the snapshot stores fit their fields where the record is valid (R4, R9, R10). -/
theorem valid_sizes {c : Cfg} (h : c.valid = true) : c.slotCount < 256 ∧ ramBytes c < 256 ^ 4 := by
  obtain ⟨-, hs, hp⟩ := valid_parts h
  obtain ⟨hcount, hsize, hbanks⟩ : c.slotCount ≤ 8 ∧ c.slotSize ≤ 16384 ∧ c.ramBanks ≤ 8 := by
    unfold Cfg.slotsFixed at hs
    unfold Cfg.poolsValid at hp
    cases hv : c.variant <;> simp [hv] at hs hp <;> omega
  exact ⟨by omega, (Nat.mul_le_mul hbanks hsize).trans_lt (by decide)⟩

section
variable (s : State) (cpu : List Byte)

theorem numberAt_snapshot_head {i n : Nat} (h : i + n ≤ 24) :
    numberAt (snapshot s cpu) i n = numberAt (snapshotHead s) i n := by
  rw [snapshot_eq, numberAt_head _ (by rw [length_snapshotHead]; exact h)]

/-- A byte of the head, as the number of one byte. -/
theorem numberAt_snapshot_byte {i : Nat} {v : Byte} (h : (snapshotHead s)[i]? = some v) :
    numberAt (snapshot s cpu) i 1 = v.toNat := by
  obtain ⟨hi, -⟩ := List.getElem?_eq_some_iff.1 h
  rw [numberAt_snapshot_head s cpu (by rw [length_snapshotHead] at hi; omega), numberAt_byte h]

theorem numberAt_snapshotHead_tsc : numberAt (snapshotHead s) 4 4 = s.tsc.toNat :=
  (leNat_leBytes 4 s.tsc.toNat).trans (Nat.mod_eq_of_lt s.tsc.isLt)

theorem numberAt_snapshotHead_frames : numberAt (snapshotHead s) 8 8 = s.frames.toNat :=
  (leNat_leBytes 8 s.frames.toNat).trans (Nat.mod_eq_of_lt s.frames.isLt)

theorem numberAt_snapshot_slot {i : Nat} (hi : i < s.cfg.slotCount) :
    numberAt (snapshot s cpu) (24 + 2 * i) 2 = entryNumber (slotEntry s.slots i) := by
  have hdrop : ∃ t, (snapshot s cpu).drop (24 + 2 * i) = leBytes 2 (slotWord (slotEntry s.slots i)).toNat ++ t := by
    rw [snapshot_eq, ← List.drop_drop, List.drop_left' (length_snapshotHead s),
      List.drop_append_of_le_length (by rw [length_snapshotTable]; omega), snapshotTable,
      drop_flatMap_of_length (fun _ _ => length_leBytes _ _), List.drop_eq_getElem_cons (by simpa using hi),
      List.flatMap_cons, List.getElem_range, List.append_assoc]
    exact ⟨_, rfl⟩
  obtain ⟨t, ht⟩ := hdrop
  rw [numberAt_of_drop ht (BitVec.isLt _), slotWord_toNat]

/-! The snapshot from each of its last parts on (R136). -/

theorem drop_snapshot_ramLen : (snapshot s cpu).drop (ramLenAt s.cfg) =
    leBytes 4 (ramBytes s.cfg) ++ (snapshotRam s ++ (leBytes 4 0 ++ (leBytes 4 cpu.length ++ cpu))) := by
  rw [snapshot_eq, ← List.append_assoc]
  exact List.drop_left' (by rw [List.length_append, length_snapshotHead, length_snapshotTable]; rfl)

theorem drop_snapshot_ram : (snapshot s cpu).drop (ramAt s.cfg) =
    snapshotRam s ++ (leBytes 4 0 ++ (leBytes 4 cpu.length ++ cpu)) := by
  rw [ramAt, ← List.drop_drop, drop_snapshot_ramLen]
  exact List.drop_left' (length_leBytes _ _)

theorem drop_snapshot_dockLen : (snapshot s cpu).drop (dockLenAt s.cfg) =
    leBytes 4 0 ++ (leBytes 4 cpu.length ++ cpu) := by
  rw [dockLenAt, ← List.drop_drop, drop_snapshot_ram]
  exact List.drop_left' (length_snapshotRam s)

theorem drop_snapshot_cpuLen : (snapshot s cpu).drop (cpuLenAt s.cfg) = leBytes 4 cpu.length ++ cpu := by
  rw [cpuLenAt, ← List.drop_drop, drop_snapshot_dockLen]
  exact List.drop_left' (length_leBytes _ _)

theorem drop_snapshot_cpu : (snapshot s cpu).drop (cpuAt s.cfg) = cpu := by
  rw [cpuAt, ← List.drop_drop, drop_snapshot_cpuLen]
  exact List.drop_left' (length_leBytes _ _)

theorem snapshot_ram {a : Nat} (ha : a < ramBytes s.cfg) : (snapshot s cpu)[ramAt s.cfg + a]? = some (ramByte s a) := by
  rw [← List.getElem?_drop, drop_snapshot_ram, List.getElem?_append_left (by rw [length_snapshotRam]; exact ha),
    snapshotRam, List.getElem?_map, List.getElem?_range ha]
  rfl

end

/-! SAVE with a CPU that returns (R378). -/

/-- SAVE once the CPU returned, with `rest` left to be said (R378). -/
def State.cpuSaved (rest : List CpuEvent) (s : State) : State :=
  { s with busy := true, calls := .cpuSave :: s.calls, pend := .cpu .save, cpuIn := rest }

theorem exec_save {s : State} {r : CpuReply} {rest : List CpuEvent} (hr : s.Ready) (hcpu : s.cpuIn = .ret r :: rest) :
    exec .save s = .next (saveReturn r.blob (s.cpuSaved rest)) := by
  have hacc : exec .save s = .next (settleAll (s.cpuSaved s.cpuIn)) :=
    congrArg _ (accept_ready (f := fun s => settleAll (saveRule s)) hr)
  have hfuel : pendingEvents (s.cpuSaved s.cpuIn) = rest.length + s.devIn.length + 1 := by
    show s.cpuIn.length + s.devIn.length = _
    rw [hcpu, List.length_cons]
    omega
  have hheard : settle (rest.length + s.devIn.length + 1) (s.cpuSaved s.cpuIn)
      = settle (rest.length + s.devIn.length) (cpuEvent .save (.ret r) (s.cpuSaved rest)) :=
    settle_cpu (s := s.cpuSaved s.cpuIn) rfl hcpu _
  have hret : cpuEvent .save (.ret r) (s.cpuSaved rest) = saveReturn r.blob (s.cpuSaved rest) := if_neg hr.2
  rw [hacc, settleAll, hfuel, hheard, hret, settle_idle (s := saveReturn _ _) (endCmd_pend _ _ _)]

theorem saveReturn_of_lt {s : State} {cpu : List Byte} (hs : s.ctrl ≠ .faulted) (h : cpu.length < 2 ^ 32) :
    saveReturn cpu s = State.replied .ok 0 { s with blob := snapshot s cpu } := by
  rw [saveReturn, if_pos h]
  exact endCmd_eq_replied hs

/-- Bytes whose number CPU_BYTES does not hold end SAVE with CPU_FAULT (R12, log entry 29). -/
theorem saveReturn_of_le {s : State} {cpu : List Byte} (hs : s.ctrl ≠ .faulted) (h : 2 ^ 32 ≤ cpu.length) :
    saveReturn cpu s = s.stopped .cpuFault := by
  rw [saveReturn, if_neg (Nat.not_lt.2 h), endCmd_of_faulted (raise_ctrl _ _), raise_eq_withFault hs]
  rfl

/-- Settles O46: the CPU's bytes end the blob of the layout, field by field. -/
theorem saveBlobLayout : Obligations.SaveBlobLayout := by
  intro s r rest hr hv hcpu
  obtain ⟨hcount, hram⟩ := valid_sizes hv
  have hat : 28 + 2 * s.cfg.slotCount = ramAt s.cfg := by rw [ramAt, ramLenAt]; omega
  have byte : ∀ {i : Nat} {v : Byte}, (snapshotHead s)[i]? = some v → numberAt (snapshot s r.blob) i 1 = v.toNat :=
    numberAt_snapshot_byte s r.blob
  rw [exec_save hr hcpu]
  refine ⟨fun hlen => ?_, fun hlen => ?_⟩
  · rw [saveReturn_of_le (s := s.cpuSaved rest) hr.2 hlen]
    rfl
  dsimp only
  rw [hat, saveReturn_of_lt (s := s.cpuSaved rest) hr.2 hlen]
  refine ⟨snapshot s r.blob, rfl, length_snapshot s r.blob, byte (v := 1) rfl, ?variant, ?slotCount, byte (v := 0) rfl,
    ?tsc, ?frames, ?border, ?earmic, ?paging, ?mode, ?hsr, ?pad, fun i => numberAt_snapshot_slot s r.blob,
    numberAt_of_drop (drop_snapshot_ramLen s r.blob) hram, fun a => snapshot_ram s r.blob,
    numberAt_of_drop (drop_snapshot_dockLen s r.blob) (by decide),
    numberAt_of_drop (drop_snapshot_cpuLen s r.blob) hlen, drop_snapshot_cpu s r.blob⟩
  case variant =>
    rw [byte (v := variantTag s.cfg.variant) rfl]
    cases s.cfg.variant <;> rfl
  case slotCount =>
    rw [byte (v := BitVec.ofNat 8 s.cfg.slotCount) rfl, BitVec.toNat_ofNat, Nat.mod_eq_of_lt hcount]
  case tsc => rw [numberAt_snapshot_head s r.blob (by decide), numberAt_snapshotHead_tsc]
  case frames => rw [numberAt_snapshot_head s r.blob (by decide), numberAt_snapshotHead_frames]
  case border => rw [byte (v := s.border.setWidth 8) rfl, BitVec.toNat_setWidth_of_le (by decide)]
  case earmic => rw [byte (v := s.earmic.setWidth 8) rfl, BitVec.toNat_setWidth_of_le (by decide)]
  case paging =>
    rw [byte (v := if s.cfg.variant = .paged then s.paging.setWidth 8 else 0) rfl, apply_ite BitVec.toNat,
      BitVec.toNat_setWidth_of_le (by decide)]
    rfl
  case mode => exact (byte (v := if s.cfg.variant = .scld then s.mode else 0) rfl).trans (apply_ite BitVec.toNat _ _ _)
  case hsr => exact (byte (v := if s.cfg.variant = .scld then s.hsr else 0) rfl).trans (apply_ite BitVec.toNat _ _ _)
  case pad =>
    rw [numberAt_snapshot_head s r.blob (by decide)]
    rfl

end Sys2Proof.Machine

namespace Sys2Proof.Machine

/-! The clock of the block's operations (R24, R165): outside the frame-boundary transition FRAMES stays and TSC does not
fall. -/

/-- The outstanding call is one that no frame boundary and no RESTORE follows. -/
def Pend.PastEnsure (p : Pend) : Prop :=
  (∀ k c, p ≠ .notify k (.boundary c)) ∧ cpuCallOf p ≠ some .check ∧ cpuCallOf p ≠ some .restore

theorem pastEnsure_idle : Pend.PastEnsure .idle := ⟨nofun, nofun, nofun⟩

/-- `t` is reached from `s` within the frame, with nothing outstanding that could move TSC back (R165). -/
structure Onward (s t : State) : Prop where
  frames : t.frames = s.frames
  tsc    : s.tsc.toNat ≤ t.tsc.toNat
  past   : t.pend.PastEnsure

theorem Onward.after {s t u : State} (h : Onward u t) (hframes : u.frames = s.frames)
    (htsc : s.tsc.toNat ≤ u.tsc.toNat) : Onward s t := ⟨h.frames.trans hframes, htsc.trans h.tsc, h.past⟩

theorem Onward.afterSame {s t u : State} (h : Onward u t) (hframes : u.frames = s.frames := by rfl)
    (htsc : u.tsc = s.tsc := by rfl) : Onward s t := h.after hframes (by rw [htsc])

theorem Onward.endCmd (r : Result) (v : BitVec 64) (s : State) : Onward s (endCmd r v s) :=
  ⟨endCmd_frames r v s, by rw [endCmd_tsc], by rw [endCmd_pend]; exact pastEnsure_idle⟩

theorem Onward.finish (r : Result) (v : BitVec 64) (s : State) : Onward s (finish r v s) := ⟨rfl, le_rfl, pastEnsure_idle⟩

theorem Onward.stopCmd (s : State) : Onward s (stopCmd s) := ⟨rfl, le_rfl, pastEnsure_idle⟩

/-- A call of the CPU other than the two of RESTORE leaves the clock (R380). -/
theorem Onward.callCpu {c : CpuCall} (hcheck : c ≠ .check) (hrestore : c ≠ .restore) (a : AgentCall) (s : State) :
    Onward s (callCpu c a s) :=
  ⟨rfl, le_rfl, nofun, by simpa [cpuCallOf] using hcheck, by simpa [cpuCallOf] using hrestore⟩

theorem Onward.beginStep (single dbg : Bool) (s : State) : Onward s (beginStep single dbg s) :=
  (Onward.callCpu (c := .step single) nofun nofun _ (startCall s)).afterSame

theorem Onward.beginNmi (claimed : Bool) (s : State) : Onward s (beginNmi claimed s) :=
  (Onward.callCpu (c := .nmi claimed) nofun nofun _ (startCall s)).afterSame

theorem Onward.askDev (k : Nat) {n : Notice} (hn : ∀ c, n ≠ .boundary c) (s : State) : Onward s (askDev k n s) :=
  ⟨rfl, le_rfl, fun _ c hc => hn c (by cases hc; rfl), nofun, nofun⟩

theorem Onward.raise {s : State} (h : s.pend.PastEnsure) (b : FaultBit) : Onward s (raise b s) :=
  ⟨raise_frames b s, by rw [raise_tsc], by rwa [raise_pend]⟩

theorem Onward.runFrameLoop (s : State) : Onward s (runFrameLoop s) := by
  unfold Machine.runFrameLoop
  split
  · exact .beginStep _ _ s
  · exact .endCmd _ _ s

theorem Onward.startNmi (s : State) : Onward s (startNmi s) := by
  unfold Machine.startNmi
  split
  · exact .beginNmi _ s
  · exact .askDev 0 (n := .nmi false) nofun s

/-- A write that leaves the clock ends its command with the clock unmoved. -/
theorem Onward.writeThenNote {write : State → State} {s : State} (hframes : (write s).frames = s.frames)
    (htsc : (write s).tsc = s.tsc) : Onward s (writeThenNote write s) := by
  refine (Onward.endCmd _ _ _).afterSame ?_ ?_ <;> unfold unlessFaulted <;> split <;> simp [hframes, htsc]

theorem Onward.wrregAfter (reg value : BitVec 8) (s : State) : Onward s (wrregAfter reg value s) := by
  unfold Machine.wrregAfter
  split
  · exact .writeThenNote (by simp) (by simp)
  · exact (Onward.endCmd _ _ { s with refused := true }).afterSame

/-- What follows `ensure()` stays in the frame (R196 to R202, R252 to R254, R372). -/
theorem Onward.afterEnsure (c : Cmd) (s : State) : Onward s (afterEnsure c s) := by
  cases c with
  | ensureFrame => exact .endCmd _ _ s
  | runFrame => exact (Onward.runFrameLoop { s with ctrl := .running }).afterSame
  | step dbg => exact (Onward.beginStep _ _ { s with ctrl := .singleStepping }).afterSame
  | reset hard => exact (Onward.callCpu (c := .reset hard) nofun nofun _ { s with ctrl := .resetting }).afterSame
  | nmi => exact (Onward.startNmi { s with ctrl := .servicingNmi }).afterSame
  | mapPaged pool mask => exact .writeThenNote (by simp) (by simp)
  | mapRomBank slot bank => exact .writeThenNote (by simp) (by simp)
  | mapRamBank slot bank => exact .writeThenNote (by simp) (by simp)
  | wrreg reg value => exact .wrregAfter reg value s

theorem Onward.endReset (s : State) : Onward s (endReset s) :=
  (Onward.endCmd _ _ (note s.tsc s)).afterSame (by simp) (by simp)

/-- Past the frame boundary the end of a notification stays in the frame (R338, R340). -/
theorem Onward.afterNotice {n : Notice} (hn : ∀ c, n ≠ .boundary c) (s : State) : Onward s (afterNotice n s) := by
  cases n with
  | boundary c => exact absurd rfl (hn c)
  | reset => exact .endReset s
  | nmi claimed => exact .beginNmi claimed s

theorem Onward.tellDevices {n : Notice} (hn : ∀ c, n ≠ .boundary c) (s : State) : Onward s (tellDevices n s) := by
  unfold Machine.tellDevices
  split
  · exact .afterNotice hn s
  · exact .askDev 0 hn s

theorem Onward.resetAfterCpu (hard : Bool) (s : State) : Onward s (resetAfterCpu hard s) := by
  have hframes : (resetRegs hard s).frames = s.frames := by cases hard <;> simp [resetRegs]
  have htsc : (resetRegs hard s).tsc = s.tsc := by cases hard <;> simp [resetRegs]
  rw [resetAfterCpu_eq]
  split
  · exact (Onward.stopCmd _).afterSame hframes htsc
  · exact (Onward.tellDevices (n := .reset) nofun _).afterSame hframes htsc

theorem Onward.saveReturn (cpu : List Byte) (s : State) : Onward s (saveReturn cpu s) := by
  obtain ⟨-, he⟩ | ⟨-, he⟩ := saveReturn_cases cpu s
  · rw [he]; exact (Onward.endCmd _ _ { s with blob := snapshot s cpu }).afterSame
  · rw [he]; exact (Onward.endCmd _ _ _).afterSame (raise_frames _ s) (raise_tsc _ s)

/-! The end of a step or of an NMI entry: CYCLES are added or a fault is raised (R164, R192, R202). -/

/-- What a commit does: it raises a fault, or adds at most N cycles (R164, R192). -/
theorem commitStep_cases (cycles : BitVec 32) (s : State) :
    (∃ b, commitStep cycles s = raise b s) ∨
    (cycles.toNat ≤ s.cfg.n ∧ commitStep cycles s = { s with tsc := s.tsc + cycles }) := by
  unfold commitStep
  split
  · exact .inl ⟨_, rfl⟩
  · obtain ⟨-, he⟩ | ⟨-, -, he⟩ | ⟨-, -, -, he⟩ | ⟨-, hn, -, he⟩ := accumulate_cases cycles s
    · exact .inl ⟨_, he⟩
    · exact .inl ⟨_, he⟩
    · exact .inl ⟨_, he⟩
    · exact .inr ⟨hn, he⟩

/-- A commit within the frame does not lower TSC, since a sum of two times within N fits it (R10, R164). -/
theorem ServingInv.tsc_le_commitStep {c : CpuCall} {s : State} (h : ServingInv c s) (cycles : BitVec 32) :
    s.tsc.toNat ≤ (Machine.commitStep cycles s).tsc.toNat := by
  obtain ⟨b, he⟩ | ⟨hn, he⟩ := commitStep_cases cycles s
  · rw [he, raise_tsc]
  · have hlt := valid_n_lt h.core.cfg
    have hframe := h.inFrame
    have hsum : (s.tsc + cycles).toNat = s.tsc.toNat + cycles.toNat := BitVec.toNat_add_of_lt (by omega)
    rw [he, hsum]
    exact Nat.le_add_right _ _

theorem ServingInv.onward_stepReturn {single : Bool} {s : State} (h : ServingInv (.step single) s) (r : CpuReply) :
    Onward s (Machine.stepReturn single r s) := by
  have hend : ∀ t : State, Onward t (if t.ctrl = .faulted then stopCmd t
      else if single then endCmd (outcomeResult r.outcome) 0 t else runFrameLoop t) := fun t => by
    split
    · exact .stopCmd t
    · split
      · exact .endCmd _ _ t
      · exact .runFrameLoop t
  unfold Machine.stepReturn
  split
  · exact (hend _).afterSame (raise_frames _ s) (raise_tsc _ s)
  · exact (hend _).after (commitStep_frames _ s) (h.tsc_le_commitStep _)

theorem ServingInv.onward_nmiReturn {c : CpuCall} {s : State} (h : ServingInv c s) (claimed : Bool) (r : CpuReply) :
    Onward s (Machine.nmiReturn claimed r s) := by
  have hs : ServingInv c { s with nmiClaimed := claimed, nmiAccepted := r.accepted } := h.keep
  unfold Machine.nmiReturn
  dsimp only
  split
  · exact (Onward.stopCmd { s with nmiClaimed := claimed, nmiAccepted := r.accepted }).afterSame
  · split
    · exact (Onward.endCmd _ _ _).afterSame (raise_frames _ _) (raise_tsc _ _)
    · split
      · exact (Onward.endCmd _ _ _).after (commitStep_frames _ _) (hs.tsc_le_commitStep _)
      · split
        · exact (Onward.endCmd _ _ _).afterSame (raise_frames _ _) (raise_tsc _ _)
        · exact (Onward.endCmd _ _ { s with nmiClaimed := claimed, nmiAccepted := r.accepted }).afterSame

/-! The bus cycles leave the clock and the call they were issued in (R165, R193). -/

theorem CycleFrame.clock {s t : State} (h : CycleFrame s t) : t.frames = s.frames ∧ t.tsc = s.tsc := by
  rw [show t = _ from h]
  exact ⟨rfl, rfl⟩

theorem serveBus_clock (i : Instr) (s : State) : (serveBus i s).frames = s.frames ∧ (serveBus i s).tsc = s.tsc :=
  (serveBus_served_withBoth i s).frame.clock

/-- A bus word is issued in a call of the CPU, and stays in it, if the cycle it asks for does (R193). -/
theorem Inv.busCycle_call {s : State} (h : Inv s) (ts : Stamp) {f : CpuCall → State → State}
    (hf : ∀ c, s.ctrl ≠ .faulted → ServingInv c (s.atBus ts) → ServingInv c (f c (s.atBus ts))) :
    cpuCallOf (Machine.busCycle ts f s).pend = cpuCallOf s.pend := by
  obtain ⟨-, he⟩ | ⟨-, he⟩ | ⟨-, he⟩ | ⟨hserving, ht, c, hp, hs, he⟩ := busCycle_cases ts f s
  · rw [he]
  · rw [he, Machine.busFault, raise_pend]
  · rw [he, Machine.busFault, raise_pend]
  · have hcall : cpuCallOf s.pend = some c := by rw [hp]; rfl
    rw [he, hcall, (hf c hserving.1 ((h.serving hcall hs).atBus ht)).call]

theorem Inv.serveBus_call {s : State} (h : Inv s) (i : Instr) : cpuCallOf (Machine.serveBus i s).pend = cpuCallOf s.pend := by
  cases i with
  | fetch a ts => exact h.busCycle_call ts fun _ _ hc => (hc.memRead a).answerMem _ _
  | memRead a ts => exact h.busCycle_call ts fun _ _ hc => (hc.memRead a).answerMem _ _
  | memWrite v a ts => exact h.busCycle_call ts fun _ _ hc => (hc.memWrite a v).answerMem _ _
  | ioRead p ts => exact h.busCycle_call ts fun _ _ hc => hc.withWait _ fun w => hc.portRead p ts w
  | ioWrite v p ts => exact h.busCycle_call ts fun _ hs hc => hc.withWait _ fun w => hc.portWrite hs rfl p v w
  | contend a ts => exact h.busCycle_call ts fun _ _ hc => hc.answerMem _ _
  | intSample ts => exact h.busCycle_call ts fun _ _ hc => hc.keep
  | intAck a ts => exact h.busCycle_call ts fun _ _ hc => hc.keep
  | _ => rfl

/-! The event a micro-step takes, by the outstanding call (R17). -/

theorem micro_of_cpu {s t : State} {c : CpuCall} (hp : s.pend = .cpu c) (hm : micro s = some t) :
    ∃ e es, t = cpuEvent c e { s with cpuIn := es } := by
  obtain ⟨c, e, es, hp', -, rfl⟩ | ⟨c, d, w, e, es, hp', -, rfl⟩ | ⟨k, n, e, es, hp', -, rfl⟩ := micro_cases hm <;>
    rw [hp] at hp' <;> cases hp'
  exact ⟨e, es, rfl⟩

theorem micro_of_notify {s t : State} {k : Nat} {n : Notice} (hp : s.pend = .notify k n) (hm : micro s = some t) :
    ∃ e es, t = noticeEvent k n e { s with devIn := es } := by
  obtain ⟨c, e, es, hp', -, rfl⟩ | ⟨c, d, w, e, es, hp', -, rfl⟩ | ⟨k, n, e, es, hp', -, rfl⟩ := micro_cases hm <;>
    rw [hp] at hp' <;> cases hp'
  exact ⟨e, es, rfl⟩

/-! The agents' answers (R17): past the frame boundary every micro-step goes onward. -/

theorem pastEnsure_of_call {p : Pend} {c : CpuCall} (h : cpuCallOf p = some c) (hcheck : c ≠ .check)
    (hrestore : c ≠ .restore) : p.PastEnsure := by
  refine ⟨?_, ?_, ?_⟩
  · rintro k c' rfl
    cases h
  · rw [h]; simpa using hcheck
  · rw [h]; simpa using hrestore

theorem CpuCall.Serves.past {c : CpuCall} (h : c.Serves) : c ≠ .check ∧ c ≠ .restore := by
  obtain ⟨b, rfl⟩ | ⟨b, rfl⟩ := h <;> exact ⟨nofun, nofun⟩

/-- The four places a command can stand, by what its outstanding call can do to the clock. -/
theorem Inv.pend_cases {s : State} (h : Inv s) :
    s.pend.PastEnsure ∨ (∃ k c, s.pend = .notify k (.boundary c)) ∨ s.pend = .cpu .check ∨ s.pend = .cpu .restore := by
  cases hp : s.pend with
  | idle => exact .inl pastEnsure_idle
  | cpu c =>
    by_cases hcheck : c = .check
    · subst hcheck; exact .inr (.inr (.inl rfl))
    · by_cases hrestore : c = .restore
      · subst hrestore; exact .inr (.inr (.inr rfl))
      · exact .inl (pastEnsure_of_call rfl hcheck hrestore)
  | io c d w =>
    obtain ⟨hcheck, hrestore⟩ := CpuCall.Serves.past (h.pend.1 c d w hp)
    exact .inl (pastEnsure_of_call rfl hcheck hrestore)
  | notify k n =>
    cases n with
    | boundary c => exact .inr (.inl ⟨k, c, rfl⟩)
    | reset => exact .inl ⟨nofun, nofun, nofun⟩
    | nmi claimed => exact .inl ⟨nofun, nofun, nofun⟩

section
variable {s : State} (h : Inv s)
include h

theorem Inv.onward_serveBus {c : CpuCall} (hp : s.pend = .cpu c) (hcheck : c ≠ .check) (hrestore : c ≠ .restore) (i : Instr) :
    Onward s (Machine.serveBus i s) := by
  obtain ⟨hframes, htsc⟩ := serveBus_clock i s
  have hcall : cpuCallOf (Machine.serveBus i s).pend = some c := by rw [h.serveBus_call, hp]; rfl
  exact ⟨hframes, by rw [htsc], pastEnsure_of_call hcall hcheck hrestore⟩

theorem Inv.onward_cpuReturn {c : CpuCall} (hp : s.pend = .cpu c) (hcheck : c ≠ .check) (hrestore : c ≠ .restore)
    (r : CpuReply) : Onward s (Machine.cpuReturn c r s) := by
  have hcall : cpuCallOf s.pend = some c := by rw [hp]; rfl
  have hstop : ∀ u, Onward s u → Onward s (if s.ctrl = .faulted then Machine.stopCmd s else u) := fun u hu => by
    split
    · exact .stopCmd s
    · exact hu
  cases c with
  | nmi claimed => exact (h.serving hcall (.inr ⟨_, rfl⟩)).onward_nmiReturn claimed r
  | step single => exact hstop _ ((h.serving hcall (.inl ⟨_, rfl⟩)).onward_stepReturn r)
  | reset hard => exact hstop _ (.resetAfterCpu hard s)
  | save => exact hstop _ (.saveReturn _ s)
  | check => exact absurd rfl hcheck
  | restore => exact absurd rfl hrestore

theorem Inv.onward_cpuEvent {c : CpuCall} (hp : s.pend = .cpu c) (hpast : s.pend.PastEnsure) (e : CpuEvent) :
    Onward s (Machine.cpuEvent c e s) := by
  obtain ⟨-, hcheck, hrestore⟩ := id hpast
  rw [hp] at hcheck hrestore
  have hcheck' : c ≠ .check := fun hc => hcheck (congrArg some hc)
  have hrestore' : c ≠ .restore := fun hc => hrestore (congrArg some hc)
  cases e with
  | command w => exact .raise hpast _
  | ret r => exact h.onward_cpuReturn hp hcheck' hrestore' r
  | bus w =>
    unfold Machine.cpuEvent
    dsimp only
    split
    · exact h.onward_serveBus hp hcheck' hrestore' _
    · exact (Onward.raise (s := { s with busReply := BusReply.zero }) hpast .cpuFault).afterSame

/-- A device called for I/O leaves the clock and the call that asked it (R331). -/
theorem Inv.onward_ioEvent {c : CpuCall} {d : Dir} {w : BitVec 32} (hp : s.pend = .io c d w) (e : DevEvent) :
    Onward s (Machine.ioEvent c d w e s) := by
  have hserves : c.Serves := h.pend.1 c d w hp
  obtain ⟨hframes, htsc⟩ := (deviceCalled_ioEvent c d w e s).1.frame.clock
  have hcall := ((h.serving (by rw [hp]; rfl) hserves).ioEvent hp e).call
  exact ⟨hframes, by rw [htsc], pastEnsure_of_call hcall hserves.past.1 hserves.past.2⟩

end

theorem Onward.noticeEvent {s : State} {k : Nat} {n : Notice} (hp : s.pend = .notify k n) (hpast : s.pend.PastEnsure)
    (e : DevEvent) : Onward s (noticeEvent k n e s) := by
  have hn : ∀ claim c, noticeWith claim n ≠ .boundary c := fun claim c hc => by
    cases n with
    | boundary c' => exact hpast.1 k c' hp
    | reset => cases hc
    | nmi claimed => cases hc
  cases e with
  | command w => exact .raise hpast _
  | ret data claim =>
    unfold Machine.noticeEvent
    dsimp only
    split
    · exact .stopCmd s
    · split
      · exact .askDev _ (hn claim) s
      · exact .afterNotice (hn claim) s

theorem Inv.onward_micro {s t : State} (h : Inv s) (hpast : s.pend.PastEnsure) (hm : Machine.micro s = some t) : Onward s t := by
  obtain ⟨c, e, es, hp, -, rfl⟩ | ⟨c, d, w, e, es, hp, -, rfl⟩ | ⟨k, n, e, es, hp, -, rfl⟩ := micro_cases hm
  · exact (Inv.onward_cpuEvent (s := { s with cpuIn := es }) h.keep hp hpast e).afterSame
  · exact (Inv.onward_ioEvent (s := { s with devIn := es }) h.keep hp e).afterSame
  · exact (Onward.noticeEvent (s := { s with devIn := es }) hp hpast e).afterSame

/-! The frame boundary moves TSC back by N, once, and FRAMES counts it (R24, R166). -/

theorem Onward.forward {s t : State} (h : Onward s t) : ClockForward s t := .inl ⟨h.frames, h.tsc⟩

theorem ClockForward.onward {s t u : State} (h : ClockForward s u) (hu : Onward u t) : ClockForward s t := by
  obtain ⟨hframes, htsc, -⟩ := hu
  obtain ⟨hf, hle⟩ | ⟨hf, hover, hle⟩ := h
  · exact .inl ⟨hframes.trans hf, hle.trans htsc⟩
  · exact .inr ⟨hframes.trans hf, hover, by omega⟩

theorem clockForward_of_same {s t : State} (hframes : t.frames = s.frames) (htsc : t.tsc = s.tsc) : ClockForward s t :=
  .inl ⟨hframes, by rw [htsc]⟩

theorem wrap_tsc_toNat (s : State) : (wrap s).tsc.toNat = s.tsc.toNat - s.cfg.n := by
  rw [wrap_tsc, BitVec.toNat_ofNat]
  exact Nat.mod_eq_of_lt ((Nat.sub_le _ _).trans_lt s.tsc.isLt)

theorem clockForward_wrap {s : State} (hover : s.cfg.n ≤ s.tsc.toNat) : ClockForward s (wrap s) :=
  .inr ⟨rfl, hover, by rw [wrap_tsc_toNat]; omega⟩

/-- The command that `s` began still tells the devices of the frame boundary, with the clock unmoved (R196, R339). -/
structure AtBoundary (s t : State) : Prop where
  cfg      : t.cfg = s.cfg
  frames   : t.frames = s.frames
  tsc      : t.tsc = s.tsc
  boundary : ∃ k c, t.pend = .notify k (.boundary c)

/-- Where a command that `s` began stands: before the wrap, or past it with the clock forward. -/
def ClockRun (s t : State) : Prop := AtBoundary s t ∨ (ClockForward s t ∧ t.pend.PastEnsure)

theorem ClockRun.forward {s t : State} (h : ClockRun s t) : ClockForward s t := by
  obtain h | ⟨h, -⟩ := h
  · exact clockForward_of_same h.frames h.tsc
  · exact h

theorem Onward.run {s t : State} (h : Onward s t) : ClockRun s t := .inr ⟨h.forward, h.past⟩

theorem ClockForward.run {s t u : State} (h : ClockForward s u) (hu : Onward u t) : ClockRun s t :=
  .inr ⟨h.onward hu, hu.past⟩

theorem AtBoundary.run {s t u : State} (h : AtBoundary s u) (hu : ClockRun u t) : ClockRun s t := by
  obtain ⟨hcfg, hframes, htsc, -⟩ := h
  obtain hb | ⟨hf, hpast⟩ := hu
  · exact .inl ⟨hb.cfg.trans hcfg, hb.frames.trans hframes, hb.tsc.trans htsc, hb.boundary⟩
  · refine .inr ⟨?_, hpast⟩
    rwa [ClockForward, hcfg, hframes, htsc] at hf

/-- `ensure()` stops at the boundary's first device, or goes on past it (R196). -/
theorem ClockRun.ensure (c : Cmd) (s : State) : ClockRun s (ensure c s) := by
  rw [ensure_eq]
  split
  · next hover =>
    unfold tellDevices
    split
    · exact (clockForward_wrap (of_decide_eq_true hover)).run (.afterEnsure c (wrap s))
    · exact .inl ⟨rfl, rfl, rfl, 0, c, rfl⟩
  · exact (Onward.afterEnsure c s).run

/-- What a device told of the boundary does next (R337, R339). -/
theorem ClockRun.noticeEvent {s : State} {k : Nat} {c : Cmd} (hp : s.pend = .notify k (.boundary c))
    (hover : s.cfg.n ≤ s.tsc.toNat) (e : DevEvent) : ClockRun s (noticeEvent k (.boundary c) e s) := by
  cases e with
  | command w => exact .inl ⟨raise_cfg _ s, raise_frames _ s, raise_tsc _ s, k, c, (raise_pend _ s).trans hp⟩
  | ret data claim =>
    unfold Machine.noticeEvent
    dsimp only
    split
    · exact (Onward.stopCmd s).run
    · split
      · exact .inl ⟨rfl, rfl, rfl, k + 1, c, rfl⟩
      · exact (clockForward_wrap hover).run (.afterEnsure c (wrap s))

theorem Inv.clockRun_micro {s t : State} (h : Inv s) {k : Nat} {c : Cmd} (hp : s.pend = .notify k (.boundary c))
    (hm : Machine.micro s = some t) : ClockRun s t := by
  obtain ⟨e, es, rfl⟩ := micro_of_notify hp hm
  have hsame : AtBoundary s { s with devIn := es } := ⟨rfl, rfl, rfl, k, c, hp⟩
  exact hsame.run (ClockRun.noticeEvent (s := { s with devIn := es }) hp (h.pend.2.2 k c hp).1 e)

theorem ClockRun.micro {s t u : State} (hrun : ClockRun s u) (h : Inv u) (hm : Machine.micro u = some t) : ClockRun s t := by
  obtain hb | ⟨hf, hpast⟩ := hrun
  · obtain ⟨k, c, hp⟩ := hb.boundary
    exact hb.run (h.clockRun_micro hp hm)
  · exact hf.run (h.onward_micro hpast hm)

/-- A command runs through the agents' answers with the clock forward (R17, R165). -/
theorem ClockRun.settleAll {s u : State} (hrun : ClockRun s u) (h : Inv u) : ClockForward s (settleAll u) :=
  (settleAll_keeps (fun t => Inv t ∧ ClockRun s t) (fun _ _ hm ht => ⟨ht.1.micro hm, ht.2.micro ht.1 hm⟩) u
    ⟨h, hrun⟩).2.forward

/-! Every operation but RESTORE and SWAP_VARIANT, and every step (R165). -/

theorem Inv.accept_forward {s : State} (h : Inv s) {legal : Bool} {f : State → State}
    (hf : legal = true → Performing s.performing → ClockForward s (f s.performing)) :
    ClockForward s (Machine.accept legal f s) := by
  obtain ⟨-, he⟩ | ⟨-, -, he⟩ | ⟨-, -, he⟩ | ⟨hr, hl, he⟩ := accept_cases legal f s
  · rw [he]; exact clockForward_of_same (raise_frames _ s) (raise_tsc _ s)
  · rw [he]; exact clockForward_of_same rfl rfl
  · rw [he]; exact clockForward_of_same rfl rfl
  · have hp : s.pend = .idle := by
      by_contra hp
      exact Bool.false_ne_true (hr.1.symm.trans (h.idle.1.2 hp))
    rw [he]
    exact hf hl ⟨h.core.keep, rfl, hr.2, h.loggedBy_tsc (by simp [hp, cpuCallOf]) hr.2⟩

theorem Onward.attachRule (parent : BitVec 8) (tag : BitVec 16) (s : State) : Onward s (attachRule parent tag s) := by
  have hraise : Onward s (Machine.endCmd .ok 0 (Machine.raise .config s)) :=
    (Onward.endCmd _ _ _).afterSame (raise_frames _ s) (raise_tsc _ s)
  unfold Machine.attachRule
  split
  · exact hraise
  · split
    · exact (Onward.finish _ _ _).afterSame
    · split
      · exact hraise
      · exact (Onward.finish _ _ _).afterSame

theorem Onward.detachRule (tag : BitVec 16) (s : State) : Onward s (detachRule tag s) := by
  unfold Machine.detachRule
  split
  · exact .finish _ _ s
  · exact (Onward.finish _ _ _).afterSame

theorem Onward.findRule (tag : BitVec 16) (s : State) : Onward s (findRule tag s) := by
  unfold Machine.findRule
  split <;> exact .finish _ _ s

theorem clockForward_acceptRead {legal : Bool} {f : State → State} {s : State} (hf : ClockForward s (f s)) :
    ClockForward s (acceptRead legal f s) := by
  obtain ⟨-, he⟩ | ⟨-, -, he⟩ | ⟨-, -, he⟩ := acceptRead_cases legal f s
  · rw [he]; exact clockForward_of_same (raise_frames _ s) (raise_tsc _ s)
  · rw [he]; exact clockForward_of_same rfl rfl
  · rwa [he]

theorem clockForward_execRdreg {s t : State} {reg : BitVec 8} {idx : BitVec 16} (he : execRdreg reg idx s = .next t) :
    ClockForward s t := by
  unfold execRdreg at he
  split at he
  · next bits n _ =>
    cases he
    refine clockForward_acceptRead ?_
    obtain ⟨-, hr⟩ | ⟨-, hr⟩ := replyReg_cases bits n s
    · rw [hr]; exact clockForward_of_same rfl rfl
    · rw [hr]; exact clockForward_of_same (raise_frames _ s) (raise_tsc _ s)
  · cases he
    exact clockForward_acceptRead (clockForward_of_same rfl rfl)

theorem Inv.exec_forward {s t : State} (h : Inv s) {i : Instr} (hrestore : i ≠ .restore) (hswap : ∀ v, i ≠ .swapVariant v)
    (he : Machine.exec i s = .next t) : ClockForward s t := by
  induction i using instr_byRule with
  | ensured i c hc =>
    rw [exec_of_ensuredCmd hc] at he
    cases he
    exact h.accept_forward fun hl hs => (ClockRun.ensure c s.performing).settleAll (hs.inv_ensure hl)
  | rdreg reg idx => exact clockForward_execRdreg he
  | attach parent tag => cases he; exact h.accept_forward fun _ _ => (Onward.attachRule parent tag s.performing).forward
  | detach tag => cases he; exact h.accept_forward fun _ _ => (Onward.detachRule tag s.performing).forward
  | find tag => cases he; exact h.accept_forward fun _ _ => (Onward.findRule tag s.performing).forward
  | save =>
    cases he
    refine h.accept_forward fun _ hs => ClockRun.settleAll (s := s.performing) (u := saveRule s.performing) ?_ ?_
    · exact (Onward.callCpu (c := .save) nofun nofun .cpuSave s.performing).run
    · exact hs.inv_callCpu (c := .save) (by simp [CpuCall.Serves]) (by simp) _
  | restore => exact absurd rfl hrestore
  | swapVariant variant => exact absurd rfl (hswap variant)
  | bus i hi =>
    rw [exec_of_bus hi] at he
    rw [onBus_eq_next he]
    obtain ⟨hframes, htsc⟩ := serveBus_clock i s
    exact clockForward_of_same hframes htsc

/-- RESTORE leaves the clock until its blob is applied (R380). -/
theorem clockForward_checkEvent (e : CpuEvent) (s : State) : ClockForward s (cpuEvent .check e s) := by
  cases e with
  | command w => exact clockForward_of_same (raise_frames _ s) (raise_tsc _ s)
  | ret r =>
    unfold cpuEvent cpuReturn checkReturn
    dsimp only
    split
    · exact clockForward_of_same rfl rfl
    · split
      · exact clockForward_of_same rfl rfl
      · exact (Onward.endCmd _ _ s).forward
  | bus w =>
    unfold cpuEvent
    dsimp only
    split
    · obtain ⟨hframes, htsc⟩ := serveBus_clock _ s
      exact clockForward_of_same hframes htsc
    · exact clockForward_of_same (raise_frames _ _) (raise_tsc _ _)

theorem Inv.micro_forward {s t : State} (h : Inv s) (hrestore : s.pend ≠ .cpu .restore) (hm : Machine.micro s = some t) :
    ClockForward s t := by
  obtain hpast | ⟨k, c, hp⟩ | hcheck | hr := h.pend_cases
  · exact (h.onward_micro hpast hm).forward
  · exact (h.clockRun_micro hp hm).forward
  · obtain ⟨e, es, rfl⟩ := micro_of_cpu hcheck hm
    exact clockForward_checkEvent e { s with cpuIn := es }
  · exact absurd hr hrestore

theorem Inv.step_forward {s t : State} (h : Inv s) (hno : ¬ s.ReplacesClock) (he : step s = .next t) : ClockForward s t := by
  obtain ⟨w, ws, i, hp, hq, hd, hs⟩ | ⟨w, ws, r, hp, -, -, hs⟩ | ⟨c, w, es, i, -, -, hd, hs⟩ |
    ⟨c, w, es, r, -, -, -, hs⟩ | ⟨u, hm, hs⟩ | hs := step_cases s <;> rw [hs] at he
  · have hword : ∀ j, decodeHost w.word = .ok j → j ≠ .restore ∧ ∀ v, j ≠ .swapVariant v := fun j hj =>
      ⟨fun hr => hno (.inr ⟨hp, w.word, w.payload, ws, hq, .inl (hr ▸ hj)⟩),
        fun v hv => hno (.inr ⟨hp, w.word, w.payload, ws, hq, .inr ⟨v, hv ▸ hj⟩⟩)⟩
    exact (h.takeWord hp ws w.payload).exec_forward (hword i hd).1 (hword i hd).2 he
  · cases he
    exact (h.takeWord hp ws w.payload).accept_forward nofun
  · have hbus : i.channel = .bus := decodeBus_channel hd
    exact Inv.exec_forward (s := { s with cpuIn := es }) h.keep (by rintro rfl; cases hbus)
      (by rintro v rfl; cases hbus) he
  · cases he
    exact clockForward_of_same (raise_frames _ _) (raise_tsc _ _)
  · cases he
    exact h.micro_forward (fun hr => hno (.inl hr)) hm
  · cases he
    exact clockForward_of_same rfl rfl

/-- Settles O17: past `ensure()` every operation goes onward, and `ensure()` wraps the clock once, at TSC of N or more. -/
theorem tscMonotonic : Obligations.TscMonotonic := fun _ _ h =>
  ⟨fun _ hrestore hswap he => h.exec_forward hrestore hswap he, h.step_forward⟩

end Sys2Proof.Machine

namespace Sys2Proof.Machine

/-! ENSURE_FRAME (R166 to R168, R196). -/

theorem noticeAfter_boundary (replies : List (Byte × Bool)) (c : Cmd) : noticeAfter replies (.boundary c) = .boundary c := by
  induction replies with
  | nil => rfl
  | cons r rs ih => exact ih

/-- Where the block is ready it performs a command its variant has: `ensure()` and what follows it (R191, R196). -/
theorem exec_ensured_ready {i : Instr} {c : Cmd} {s : State} (hi : ensuredCmd i = some c) (hr : s.Ready)
    (hl : cmdLegal s.cfg.variant c = true) : exec i s = .next (settleAll (ensure c s.performing)) := by
  rw [exec_of_ensuredCmd hi, hl]
  exact congrArg _ (accept_ready (f := fun s => settleAll (ensure c s)) hr)

/-- Within the frame ENSURE_FRAME replies and changes nothing (R196). -/
theorem exec_ensureFrame_inFrame {s : State} (hr : s.Ready) (hf : s.InFrame) :
    exec .ensureFrame s = .next (s.replied .ok 0) := by
  have hend : afterEnsure .ensureFrame s.performing = s.replied .ok 0 := endCmd_eq_replied (s := s.performing) hr.2
  have h := hostCommand_inFrame (c := .ensureFrame) hr hf (by rw [hend]; rfl)
  rwa [hend] at h

/-- The agents have at least the devices' answers to say when the devices are told. -/
theorem le_pendingEvents_tellDevices {s : State} {n : Notice} {replies : List (Byte × Bool)} {rest : List DevEvent}
    (hlen : replies.length = s.dev.length) (hq : s.devIn = deviceReturns replies ++ rest) :
    replies.length ≤ pendingEvents (tellDevices n s) := by
  unfold tellDevices
  split
  · next hdev =>
    rw [hlen, hdev]
    exact Nat.zero_le _
  · show _ ≤ s.cpuIn.length + s.devIn.length
    rw [hq, List.length_append, deviceReturns, List.length_map]
    omega

theorem exec_ensureFrame_over {s : State} {replies : List (Byte × Bool)} {rest : List DevEvent} (hr : s.Ready)
    (hover : s.cfg.n ≤ s.tsc.toNat) (hlen : replies.length = s.dev.length)
    (hq : s.devIn = deviceReturns replies ++ rest) :
    exec .ensureFrame s = .next ((s.newFrame rest).replied .ok 0) := by
  have hens : ensure .ensureFrame s.performing = tellDevices (.boundary .ensureFrame) s.performing := by
    rw [ensure_eq]
    exact if_pos (decide_eq_true hover)
  obtain ⟨p, hp⟩ := settle_tellDevices (s := s.performing) (n := .boundary .ensureFrame) hr.2 hlen hq
  obtain ⟨m, hm⟩ := Nat.exists_eq_add_of_le
    (le_pendingEvents_tellDevices (s := s.performing) (n := .boundary .ensureFrame) hlen hq)
  have hend : afterNotice (.boundary .ensureFrame) (s.performing.told (.onFrameBoundary s.tsc) 0 p rest)
      = (s.newFrame rest).replied .ok 0 :=
    endCmd_eq_replied (s := wrap (s.performing.told (.onFrameBoundary s.tsc) 0 p rest)) hr.2
  rw [exec_ensured_ready rfl hr rfl, hens, settleAll, hm, hp, noticeAfter_boundary]
  exact congrArg _ ((congrArg (settle m) hend).trans (settle_idle rfl m))

/-- Settles O14: within the frame at once, at frame-over after the devices' answers. -/
theorem ensureFrame : Obligations.EnsureFrame := fun _ hr =>
  ⟨exec_ensureFrame_inFrame hr, fun _ _ hover _ hlen hq => exec_ensureFrame_over hr hover hlen hq⟩

/-! ENSURE_FRAME leaves the frame in progress (R168). -/

/-- Where ENSURE_FRAME can stand: it still tells the devices of the boundary, it faulted, or it replied in the frame. -/
def EnsureFrameRun (s : State) : Prop :=
  ((∃ k, s.pend = .notify k (.boundary .ensureFrame)) ∧ s.cfg.n ≤ s.tsc.toNat ∧ s.tsc.toNat < 2 * s.cfg.n) ∨
  (s.pend = .idle ∧ s.ctrl = .faulted) ∨
  ∃ u : State, u.InFrame ∧ s = u.replied .ok 0

theorem EnsureFrameRun.endCmd {s : State} (hf : s.InFrame) : EnsureFrameRun (endCmd .ok 0 s) := by
  by_cases hs : s.ctrl = .faulted
  · rw [endCmd_of_faulted hs]
    exact .inr (.inl ⟨rfl, hs⟩)
  · exact .inr (.inr ⟨s, hf, endCmd_eq_replied hs⟩)

/-- From TSC between N and 2N the wrap puts TSC into the frame (R166). -/
theorem wrap_inFrame_of_lt {s : State} (hover : s.cfg.n ≤ s.tsc.toNat) (hlt : s.tsc.toNat < 2 * s.cfg.n) :
    (wrap s).InFrame := by
  simp only [State.InFrame, wrap_tsc_toNat, wrap_cfg]
  omega

theorem EnsureFrameRun.ensure {s : State} (hlt : s.tsc.toNat < 2 * s.cfg.n) : EnsureFrameRun (ensure .ensureFrame s) := by
  rw [ensure_eq]
  split
  · next hover =>
    have hn : s.cfg.n ≤ s.tsc.toNat := of_decide_eq_true hover
    unfold tellDevices
    split
    · exact .endCmd (wrap_inFrame_of_lt hn hlt)
    · exact .inl ⟨⟨0, rfl⟩, hn, hlt⟩
  · next hover => exact .endCmd (Nat.lt_of_not_le fun hn => hover (decide_eq_true hn))

theorem EnsureFrameRun.noticeEvent {s : State} {k : Nat} (hp : s.pend = .notify k (.boundary .ensureFrame))
    (hover : s.cfg.n ≤ s.tsc.toNat) (hlt : s.tsc.toNat < 2 * s.cfg.n) (e : DevEvent) :
    EnsureFrameRun (noticeEvent k (.boundary .ensureFrame) e s) := by
  cases e with
  | command w =>
    unfold Machine.noticeEvent
    exact .inl ⟨⟨k, (raise_pend _ s).trans hp⟩, by simpa using hover, by simpa using hlt⟩
  | ret data claim =>
    unfold Machine.noticeEvent
    dsimp only
    split
    · next hs => exact .inr (.inl ⟨rfl, hs⟩)
    · split
      · exact .inl ⟨⟨k + 1, rfl⟩, hover, hlt⟩
      · exact .endCmd (wrap_inFrame_of_lt hover hlt)

theorem EnsureFrameRun.micro {s t : State} (hm : micro s = some t) (h : EnsureFrameRun s) : EnsureFrameRun t := by
  obtain ⟨⟨k, hp⟩, hover, hlt⟩ | ⟨hp, -⟩ | ⟨u, -, rfl⟩ := h
  · obtain ⟨e, es, rfl⟩ := micro_of_notify hp hm
    exact EnsureFrameRun.noticeEvent (s := { s with devIn := es }) hp hover hlt e
  · rw [micro_idle hp] at hm
    cases hm
  · cases hm

/-- A command that ends outside FAULTED was performed (R191). -/
theorem ready_of_exec_ensureFrame {s t : State} (he : exec .ensureFrame s = .next t) (hc : t.ctrl ≠ .faulted) : s.Ready := by
  cases he
  obtain ⟨-, ha⟩ | ⟨-, hf, ha⟩ | ⟨hr, -⟩ | ⟨hr, -⟩ := accept_cases true (fun s => settleAll (ensure .ensureFrame s)) s
  · exact absurd (by rw [ha]; exact raise_ctrl _ s) hc
  · exact absurd (by rw [ha]; exact hf) hc
  · exact hr
  · exact hr

theorem EnsureFrameRun.exec {s t : State} (hr : s.Ready) (hlt : s.tsc.toNat < 2 * s.cfg.n)
    (he : Machine.exec .ensureFrame s = .next t) : EnsureFrameRun t := by
  rw [exec_ensured_ready rfl hr rfl] at he
  cases he
  exact settleAll_keeps EnsureFrameRun (fun _ _ => EnsureFrameRun.micro) _ (.ensure hlt)

/-- Settles O15: ENSURE_FRAME ends with its reply in the frame, which it gives again. -/
theorem ensureIdempotent : Obligations.EnsureIdempotent := by
  intro s t hlt he hp hc
  obtain ⟨⟨k, hk⟩, -⟩ | ⟨-, hf⟩ | ⟨u, hu, rfl⟩ := EnsureFrameRun.exec (ready_of_exec_ensureFrame he hc) hlt he
  · exact absurd (hk.symm.trans hp) nofun
  · exact absurd hf hc
  · exact ⟨hu, exec_ensureFrame_inFrame ⟨rfl, hc⟩ hu⟩

end Sys2Proof.Machine

namespace Sys2Proof.Machine

/-! The return of the CPU from a step's call (R164, R192, R195, R420). -/

theorem outcomeFaults_iff (o : BitVec 2) : outcomeFaults o = true ↔ 2 ≤ o.toNat := by
  revert o
  decide

/-- The CPU's answers up to `rest` were taken. -/
def State.heard (rest : List CpuEvent) (s : State) : State := { s with cpuIn := rest }

/-- Inside a step's call the CPU's return is the end of the step (R195). -/
theorem step_stepReturn {s : State} {single : Bool} {r : CpuReply} {rest : List CpuEvent}
    (hp : s.pend = .cpu (.step single)) (hs : s.ctrl ≠ .faulted) (hq : s.cpuIn = .ret r :: rest) :
    step s = .next (stepReturn single r (s.heard rest)) := by
  simp [step, fetchNext, fetchCpu, hp, hq, cpuEvent, cpuReturn, hs, State.heard]

/-- A commit that breaks no duty adds the cycles (R164, R192, R459). -/
theorem commitStep_of_kept {cycles : BitVec 32} {s : State} (hbus : s.lastBusTs.toNat ≤ s.stepStart.toNat + cycles.toNat)
    (hpos : 1 ≤ cycles.toNat) (hn : cycles.toNat ≤ s.cfg.n) (hwaits : s.waitsGiven ≤ cycles.toNat) :
    commitStep cycles s = { s with tsc := s.tsc + cycles } := by
  have hne : cycles ≠ 0 := by rintro rfl; simp at hpos
  rw [commitStep, if_neg (Nat.not_lt.2 hbus), accumulate, if_neg hne, if_neg (Nat.not_lt.2 hn), if_neg (Nat.not_lt.2 hwaits)]
  rfl

/-- A step whose outcome is no fault ends with what its commit left (R195, R197, R199). -/
theorem stepReturn_of_commit {single : Bool} {r : CpuReply} {s u : State} (ho : r.outcome.toNat < 2)
    (hu : commitStep r.cycles s = u) (hs : u.ctrl ≠ .faulted) :
    stepReturn single r s = if single then u.replied (outcomeResult r.outcome) 0 else runFrameLoop u := by
  have hno : ¬ outcomeFaults r.outcome = true := fun h => absurd ((outcomeFaults_iff _).1 h) (Nat.not_le.2 ho)
  unfold stepReturn
  dsimp only
  rw [if_neg hno, hu, if_neg hs, endCmd_eq_replied hs]

/-- A fault raised by the outcome or by the commit ends the step (R412). -/
theorem stepReturn_of_raise {single : Bool} {r : CpuReply} {s : State} {b : FaultBit} (hs : s.ctrl ≠ .faulted)
    (h : (if outcomeFaults r.outcome then raise .cpuFault s else commitStep r.cycles s) = raise b s) :
    stepReturn single r s = s.stopped b := by
  unfold stepReturn
  dsimp only
  rw [h, if_pos (raise_ctrl b s), raise_eq_withFault hs]
  rfl

/-- RUN_FRAME ends at or beyond N, and calls the CPU again below it (R197). -/
theorem runFrameLoop_eq {s : State} (hs : s.ctrl ≠ .faulted) :
    runFrameLoop s = if s.cfg.n ≤ s.tsc.toNat then s.replied .ok 0 else beginStep false false s := by
  rw [runFrameLoop, endCmd_eq_replied hs]
  split
  · next h => rw [if_neg (Nat.not_le.2 h)]
  · next h => rw [if_pos (Nat.not_lt.1 h)]

/-- Settles O19: no check faults, so the cycles are added; then STEP's end, or RUN_FRAME's loop test. -/
theorem stepReturnCommits : Obligations.StepReturnCommits := by
  intro s single r rest hp hs hq ho hbus hpos hn hwaits u
  have hcommit : commitStep r.cycles (s.heard rest) = u := commitStep_of_kept hbus hpos hn hwaits
  rw [step_stepReturn hp hs hq, stepReturn_of_commit ho hcommit hs]
  cases single with
  | true => rfl
  | false =>
    have hbegin : beginStep false false u = { u with
        stepStart := u.tsc, lastBusTs := u.tsc, busUsed := false, waitsGiven := 0,
        calls := .cpuStep u.tsc false :: s.calls } := by
      rw [beginStep, callCpu, ← hp]
      rfl
    rw [runFrameLoop_eq (s := u) hs, hbegin]
    rfl

/-- Settles O20: the checks in their order, each of which raises its fault. -/
theorem stepReturnFaults : Obligations.StepReturnFaults := by
  intro s b r rest hp hs hq stop
  have hstop : ∀ f, (if outcomeFaults r.outcome then raise .cpuFault (s.heard rest)
      else commitStep r.cycles (s.heard rest)) = raise f (s.heard rest) → stop f := fun f h =>
    (step_stepReturn hp hs hq).trans (congrArg _ (stepReturn_of_raise (s := s.heard rest) hs h))
  simp only [← outcomeFaults_iff]
  split
  · next ho => exact hstop _ (if_pos ho)
  · next ho =>
    have hcommit : ∀ f, commitStep r.cycles (s.heard rest) = raise f (s.heard rest) → stop f := fun f h =>
      hstop f ((if_neg ho).trans h)
    split
    · next hbus => exact hcommit _ (if_pos hbus)
    · next hbus =>
      have hacc : ∀ f, accumulate r.cycles (s.heard rest) = raise f (s.heard rest) → stop f := fun f h =>
        hcommit f ((if_neg hbus).trans h)
      split
      · next hzero => exact hacc _ (if_pos (BitVec.eq_of_toNat_eq hzero))
      · next hzero =>
        have hne : r.cycles ≠ 0 := fun h => hzero (congrArg BitVec.toNat h)
        split
        · next hn => exact hacc _ ((if_neg hne).trans (if_pos hn))
        · next hn => exact fun hwaits => hacc _ ((if_neg hne).trans ((if_neg hn).trans (if_pos hwaits)))

/-! STEP with a CPU that returns at once (R199). -/

/-- STEP within the frame, with the CPU called and its return taken (R192). -/
def State.stepCalled (dbg : Bool) (rest : List CpuEvent) (s : State) : State :=
  { s with busy := true, ctrl := .singleStepping, stepStart := s.tsc, lastBusTs := s.tsc, busUsed := false, waitsGiven := 0,
           calls := .cpuStep s.tsc dbg :: s.calls, pend := .cpu (.step true), cpuIn := rest }

/-- Within the frame `ensure()` does nothing (R196). -/
theorem ensure_of_inFrame {s : State} (hf : s.InFrame) (c : Cmd) : ensure c s = afterEnsure c s := by
  rw [ensure_eq]
  exact if_neg (Bool.eq_false_iff.1 (decide_eq_false (Nat.not_le.2 hf)))

/-- A command that called the CPU runs on from what it answered (R17). -/
theorem settleAll_cpu {s : State} {c : CpuCall} {e : CpuEvent} {es : List CpuEvent} (hp : s.pend = .cpu c)
    (hq : s.cpuIn = e :: es) :
    settleAll s = settle (es.length + s.devIn.length) (cpuEvent c e (s.heard es)) := by
  have hfuel : pendingEvents s = es.length + s.devIn.length + 1 := by
    rw [pendingEvents, hq, List.length_cons]
    omega
  rw [settleAll, hfuel, settle_cpu hp hq]
  rfl

/-- STEP within the frame calls the CPU, whose return ends the step (R196, R199). -/
theorem exec_step_inFrame {s : State} {dbg : Bool} {r : CpuReply} {rest : List CpuEvent} (hr : s.Ready) (hf : s.InFrame)
    (hcpu : s.cpuIn = .ret r :: rest) :
    exec (.step dbg) s = .next (settle (rest.length + s.devIn.length) (stepReturn true r (s.stepCalled dbg rest))) := by
  have hens : ensure (.step dbg) s.performing = s.stepCalled dbg s.cpuIn := ensure_of_inFrame (s := s.performing) hf _
  rw [exec_ensured_ready rfl hr rfl, hens, settleAll_cpu (s := s.stepCalled dbg s.cpuIn) rfl hcpu]
  rfl

/-- Settles O18: within the frame the CPU's return is the step's commit, which no bus word and no wait precedes. -/
theorem stepCompletes : Obligations.StepCompletes := by
  intro s dbg r rest hr hf hcpu ho hpos hn
  have hcommit : commitStep r.cycles (s.stepCalled dbg rest) = { s.stepCalled dbg rest with tsc := s.tsc + r.cycles } :=
    commitStep_of_kept (Nat.le_add_right _ _) hpos hn (Nat.zero_le _)
  rw [exec_step_inFrame hr hf hcpu, stepReturn_of_commit ho hcommit nofun, if_pos rfl, settle_idle rfl]
  rfl

end Sys2Proof.Machine

namespace Sys2Proof.Machine

/-! CONTEND, INT_SAMPLE and INT_ACK (R204, R205, R264). -/

section
variable {s : State} {ts : Stamp} (hs : s.Serving) (ht : s.StampOk ts)
include hs ht

theorem exec_contend (a : Addr) : exec (.contend a ts) s = .next (s.memReplied ts (memDelay s a ts) 0) := by
  obtain ⟨c, -, hc⟩ := busCycle_serving (fun _ s => answerMem (memWait a ts s) 0 s) hs ht
  calc exec (.contend a ts) s
    _ = .next (serveContend a ts s) := onBus_serving _ hs
    _ = .next (answerMem (memWait a ts (s.atBus ts)) 0 (s.atBus ts)) := congrArg _ hc
    _ = _ := by rw [answerMem_atBus hs.1]

theorem exec_intSample : exec (.intSample ts) s = .next (busAnswer 0 (intActive s ts) 0 (s.atBus ts)) := by
  obtain ⟨c, -, hc⟩ := busCycle_serving (fun _ s => busAnswer 0 (intActive s ts) 0 s) hs ht
  exact (onBus_serving (serveIntSample ts) hs).trans (congrArg _ hc)

theorem exec_intAck (a : Addr) :
    exec (.intAck a ts) s = .next (busAnswer 0 false (drawFloating s).1 (drawFloating (s.atBus ts)).2) := by
  obtain ⟨c, -, hc⟩ := busCycle_serving (fun _ s => busAnswer 0 false (drawFloating s).1 (drawFloating s).2) hs ht
  exact (onBus_serving (serveIntAck ts) hs).trans (congrArg _ hc)

end

/-- With N positive the interrupt line is R171's. -/
theorem intActive_eq {s : State} (hn : s.cfg.n ≠ 0) (ts : Stamp) :
    intActive s ts = decide (ts.toNat % s.cfg.n < s.cfg.intLength ∧ ¬ (s.cfg.variant = .scld ∧ s.mode.getLsbD 6 = true)) := by
  simp only [intActive, intWindow, if_neg hn, intDisable, Bool.decide_and, decide_not, Bool.decide_eq_true]

/-- Settles O55: each cycle's reply, where its timestamp passes, which needs N positive. -/
theorem quietCycles : Obligations.QuietCycles := by
  intro s a ts hs ht answer
  have hn : s.cfg.n ≠ 0 := by
    have := ht.2
    omega
  refine ⟨exec_contend hs ht a, ?_, exec_intAck hs ht a⟩
  rw [exec_intSample hs ht, intActive_eq hn]
  rfl

end Sys2Proof.Machine

namespace Sys2Proof.Machine

/-! FAULTED is terminal (R191, R413). -/

/-- A command issued in FAULTED, with none active, is answered FAULTED and not performed (R191). -/
theorem accept_of_faulted {s : State} (hf : s.ctrl = .faulted) (hb : s.busy = false) (legal : Bool) (f : State → State) :
    accept legal f s = refuseFaulted s := by
  rw [accept, if_neg (by simp [hb]), if_pos hf]

/-- In FAULTED every command but RDREG is refused (R191, R413). -/
theorem exec_of_faulted {s : State} (hf : s.ctrl = .faulted) (hb : s.busy = false) {i : Instr} (hi : i.channel = .host)
    (hno : ∀ reg idx, i ≠ .rdreg reg idx) : exec i s = .next (refuseFaulted s) := by
  have hcmd : ∀ legal f, hostCommand legal f s = .next (refuseFaulted s) := fun legal f =>
    congrArg _ (accept_of_faulted hf hb legal f)
  induction i using instr_byRule with
  | ensured i c hc => exact (exec_of_ensuredCmd hc s).trans (hcmd _ _)
  | rdreg reg idx => exact absurd rfl (hno reg idx)
  | attach parent tag => exact hcmd _ _
  | detach tag => exact hcmd _ _
  | find tag => exact hcmd _ _
  | save => exact hcmd _ _
  | restore => exact hcmd _ _
  | swapVariant variant => exact hcmd _ _
  | bus i hbus => exact absurd (hi.symm.trans hbus) (by decide)

/-- Settles O7: `accept` refuses in FAULTED, and a step stays in FAULTED's frame. -/
theorem faultedTerminal : Obligations.FaultedTerminal := by
  intro s hf
  refine ⟨fun i hi hno hb => exec_of_faulted hf hb hi hno, fun t he => ?_⟩
  rw [show t = _ from FaultedFrame.step hf he]
  exact ⟨hf, rfl, rfl, rfl, rfl, rfl, rfl, rfl, rfl, rfl, rfl, rfl, rfl, rfl, rfl, rfl⟩

end Sys2Proof.Machine

namespace Sys2Proof.Machine

/-! A bus cycle that is not performed (R194, R200, R412). -/

/-- A bus word with a timestamp is served by its cycle's entry (R194). -/
theorem exec_of_busStamp {i : Instr} {ts : Stamp} (h : busStamp i = some ts) :
    ∃ f, ∀ s, exec i s = onBus (busCycle ts f) s := by
  cases i <;> cases h <;> exact ⟨_, fun _ => rfl⟩

/-- A fault of a bus cycle is raised with the reply of zeros (R412). -/
theorem busFault_eq_withFault {b : FaultBit} {s : State} (hs : s.ctrl ≠ .faulted) :
    busFault b s = State.withFault b { s with busReply := ⟨0, false, 0⟩ } :=
  raise_eq_withFault (s := { s with busReply := BusReply.zero }) hs

/-- A bus word below LAST_BUS_TS, or at or beyond 2N, is TS_ORDER (R194). -/
theorem busCycle_of_badStamp {s : State} {ts : Stamp} (hs : s.Serving)
    (hts : ts.toNat < s.lastBusTs.toNat ∨ 2 * s.cfg.n ≤ ts.toNat) (f : CpuCall → State → State) :
    busCycle ts f s = busFault .tsOrder { s with busUsed := true } := by
  obtain ⟨hc, ⟨b, hp⟩ | ⟨b, hp⟩⟩ := hs <;> simp [busCycle, hc, hp, hts]

/-- Any bus word in CPU.reset is CPU_FAULT (R200). -/
theorem busCycle_of_reset {s : State} {hard : Bool} (hs : s.ctrl ≠ .faulted) (hp : s.pend = .cpu (.reset hard)) (ts : Stamp)
    (f : CpuCall → State → State) : busCycle ts f s = busFault .cpuFault s := by
  simp [busCycle, hs, hp]

/-- Settles O59: the cycle's entry faults before the cycle is performed. -/
theorem tsOrder : Obligations.TsOrder := by
  intro s i ts hi
  obtain ⟨f, hexec⟩ := exec_of_busStamp hi
  refine ⟨fun hs hts => ?_, fun hard hs hp => ?_⟩
  · rw [hexec, onBus_serving _ hs, busCycle_of_badStamp hs hts,
      busFault_eq_withFault (s := { s with busUsed := true }) hs.1]
  · have hcall : onBus (busCycle ts f) s = .next (busCycle ts f s) := by simp [onBus, inCpuCall, hp]
    rw [hexec, hcall, busCycle_of_reset hs hp, busFault_eq_withFault hs]

end Sys2Proof.Machine

namespace Sys2Proof.Machine

/-! The return of the CPU from an NMI entry (R202, R420). -/

/-- A fault raised by a command's rule ends the command (R412). -/
theorem endCmd_raise {b : FaultBit} {s : State} (hs : s.ctrl ≠ .faulted) (r : Result) (v : BitVec 64) :
    endCmd r v (raise b s) = s.stopped b := by
  rw [endCmd_of_faulted (raise_ctrl b s), raise_eq_withFault hs]
  rfl

/-- The checks of a commit in their order, and the commit (R164, R192, R420, R459). -/
theorem commitStep_eq (cycles : BitVec 32) (s : State) :
    commitStep cycles s =
      if s.stepStart.toNat + cycles.toNat < s.lastBusTs.toNat then raise .tsOrder s
      else if cycles.toNat = 0 then raise .zeroStep s
      else if s.cfg.n < cycles.toNat then raise .tscOverflow s
      else if cycles.toNat < s.waitsGiven then raise .tsOrder s
      else { s with tsc := s.tsc + cycles } := by
  have hzero : cycles = 0 ↔ cycles.toNat = 0 := BitVec.toNat_inj.symm
  simp only [commitStep, accumulate, hzero]
  rfl

/-- STATUS once the CPU's NMI entry returned: the devices' claim and the CPU's acceptance (R202). -/
def State.nmiReported (claimed accepted : Bool) (s : State) : State :=
  { s with nmiClaimed := claimed, nmiAccepted := accepted }

/-- The checks of an NMI entry's return, and its commit (R202). -/
def nmiCommit (r : CpuReply) (s : State) : State :=
  if outcomeFaults r.outcome then raise .cpuFault s
  else if r.accepted then commitStep r.cycles s
  else if r.cycles ≠ 0 ∨ s.busUsed then raise .cpuFault s
  else s

/-- Outside FAULTED an NMI entry's return writes STATUS, then checks and commits (R202). -/
theorem nmiReturn_eq {s : State} (hs : s.ctrl ≠ .faulted) (claimed : Bool) (r : CpuReply) :
    nmiReturn claimed r s = endCmd (outcomeResult r.outcome) 0 (nmiCommit r (s.nmiReported claimed r.accepted)) :=
  if_neg hs

/-- Inside an NMI entry the CPU's return is the end of the entry (R202). -/
theorem step_nmiReturn {s : State} {claimed : Bool} {r : CpuReply} {rest : List CpuEvent}
    (hp : s.pend = .cpu (.nmi claimed)) (hq : s.cpuIn = .ret r :: rest) :
    step s = .next (nmiReturn claimed r (s.heard rest)) := by
  simp [step, fetchNext, fetchCpu, hp, hq, cpuEvent, cpuReturn, State.heard]

/-- The checks of an NMI entry's return in their order, and its commit (R202, R420, R459). -/
theorem nmiCommit_eq (r : CpuReply) (s : State) :
    nmiCommit r s =
      if 2 ≤ r.outcome.toNat then raise .cpuFault s
      else if r.accepted = false then
        if r.cycles.toNat ≠ 0 ∨ s.busUsed = true then raise .cpuFault s else s
      else commitStep r.cycles s := by
  have hzero : r.cycles ≠ 0 ↔ r.cycles.toNat ≠ 0 := BitVec.toNat_inj.not.symm
  simp only [nmiCommit, outcomeFaults_iff, hzero]
  cases r.accepted <;> rfl

end Sys2Proof.Machine

namespace Sys2Proof

open Machine

/-- Settles O26: STATUS, then the checks in their order, each of which raises its fault, then the commit. -/
theorem nmiReturn : Obligations.NmiReturn := by
  intro s claimed r rest hp hs hq u res
  have hstep : step s = .next (endCmd res 0 (nmiCommit r u)) := by
    rw [step_nmiReturn hp hq, nmiReturn_eq (s := s.heard rest) hs]
    rfl
  have hstop : ∀ b, endCmd res 0 (raise b u) = u.stopped b := fun b => endCmd_raise (s := u) hs res 0
  have hreply : ∀ t, t.ctrl ≠ .faulted → endCmd res 0 t = t.replied res 0 := fun _ => endCmd_eq_replied
  rw [hstep, nmiCommit_eq, commitStep_eq]
  split_ifs with ho hacc hused hbus hzero hn hwaits
  · exact congrArg _ (hstop _)
  · exact congrArg _ (hstop _)
  · exact congrArg _ (hreply u hs)
  · exact congrArg _ (hstop _)
  · exact congrArg _ (hstop _)
  · exact congrArg _ (hstop _)
  · exact congrArg _ (hstop _)
  · exact congrArg _ (hreply { u with tsc := s.tsc + r.cycles } hs)

end Sys2Proof

namespace Sys2Proof.Machine

/-! NMI with a CPU and devices that return at once (R202, R340). -/

/-- The devices' claims are OR-ed into the notification (R340). -/
theorem noticeAfter_nmi (replies : List (Byte × Bool)) (claimed : Bool) :
    noticeAfter replies (.nmi claimed) = .nmi (claimed || replies.any fun p => p.2) := by
  induction replies generalizing claimed with
  | nil => simp [noticeAfter]
  | cons r rs ih => rw [noticeAfter_cons, noticeWith, ih, List.any_cons, Bool.or_assoc]

/-- NMI tells the devices, then calls the CPU (R202). -/
theorem startNmi_eq (s : State) : startNmi s = tellDevices (.nmi false) s := by
  unfold startNmi tellDevices
  cases s.dev <;> rfl

/-- Calling the devices or the CPU takes none of the agents' answers (R202). -/
theorem pendingEvents_startNmi (s : State) : pendingEvents (startNmi s) = pendingEvents s := by
  unfold startNmi
  split <;> rfl

/-- NMI within the frame before its return: the devices told, the CPU called and its return taken (R202). -/
def State.nmiCalled (claimed : Bool) (rest : List CpuEvent) (drest : List DevEvent) (s : State) : State :=
  { s with busy := true, ctrl := .servicingNmi, stepStart := s.tsc, lastBusTs := s.tsc, busUsed := false, waitsGiven := 0,
           calls := .cpuNmi s.tsc :: (toldDevices (.onNmi s.tsc) s ++ s.calls), pend := .cpu (.nmi claimed),
           cpuIn := rest, devIn := drest }

theorem nmiCalled_ctrl_ne (claimed : Bool) (rest : List CpuEvent) (drest : List DevEvent) (s : State) :
    (s.nmiCalled claimed rest drest).ctrl ≠ .faulted := by simp [State.nmiCalled]

/-- NMI within the frame asks the devices, then the CPU, whose return ends the entry (R196, R202). -/
theorem exec_nmi_inFrame {s : State} {r : CpuReply} {rest : List CpuEvent} {replies : List (Byte × Bool)}
    {drest : List DevEvent} (hr : s.Ready) (hf : s.InFrame) (hcpu : s.cpuIn = .ret r :: rest)
    (hlen : replies.length = s.dev.length) (hdev : s.devIn = deviceReturns replies ++ drest) :
    let claimed := replies.any fun p => p.2
    exec .nmi s = .next (nmiReturn claimed r (s.nmiCalled claimed rest drest)) := by
  intro claimed
  let u : State := { s.performing with ctrl := .servicingNmi }
  have hens : ensure .nmi s.performing = startNmi u := ensure_of_inFrame (s := s.performing) hf _
  have hfuel : pendingEvents (startNmi u) = replies.length + (rest.length + drest.length + 1) := by
    rw [pendingEvents_startNmi]
    show s.cpuIn.length + s.devIn.length = _
    rw [hcpu, hdev, List.length_append, deviceReturns, List.length_map, List.length_cons]
    omega
  obtain ⟨p, hp⟩ := settle_tellDevices (s := u) (n := .nmi false) nofun hlen hdev
  have hcalled : afterNotice (.nmi claimed) (u.told (.onNmi s.tsc) 0 p drest) = s.nmiCalled claimed s.cpuIn drest := rfl
  have hheard : ∀ m, settle (m + 1) (s.nmiCalled claimed s.cpuIn drest)
      = settle m (nmiReturn claimed r (s.nmiCalled claimed rest drest)) :=
    settle_cpu (s := s.nmiCalled claimed s.cpuIn drest) rfl hcpu
  have hidle : (nmiReturn claimed r (s.nmiCalled claimed rest drest)).pend = .idle := by
    rw [nmiReturn_eq (nmiCalled_ctrl_ne _ _ _ _), endCmd_pend]
  rw [exec_ensured_ready rfl hr rfl, hens, settleAll, hfuel, startNmi_eq, hp, noticeAfter_nmi, Bool.false_or]
  exact congrArg _ ((congrArg _ hcalled).trans ((hheard _).trans (settle_idle hidle _)))

/-- A refused entry that reports neither cycles nor bus words passes its checks (R202). -/
theorem nmiCommit_of_refused {r : CpuReply} {s : State} (ho : r.outcome.toNat < 2) (hacc : r.accepted = false)
    (hcycles : r.cycles = 0) (hused : s.busUsed = false) : nmiCommit r s = s := by
  rw [nmiCommit_eq, if_neg (Nat.not_le.2 ho), if_pos hacc, if_neg (by simp [hcycles, hused])]

/-- An accepted entry whose outcome is no fault commits its cycles (R202). -/
theorem nmiCommit_of_accepted {r : CpuReply} {s : State} (ho : r.outcome.toNat < 2) (hacc : r.accepted = true) :
    nmiCommit r s = commitStep r.cycles s := by
  rw [nmiCommit_eq, if_neg (Nat.not_le.2 ho), if_neg (by simp [hacc])]

/-- Settles O25: the devices' answers, the CPU's, and its commit, which no bus word and no wait precedes. -/
theorem nmiCompletes : Obligations.NmiCompletes := by
  intro s r rest replies drest hr hf hcpu hlen hdev ho hcycles
  let claimed := replies.any fun p => p.2
  let u := (s.nmiCalled claimed rest drest).nmiReported claimed r.accepted
  have hu : u.ctrl ≠ .faulted := nmiCalled_ctrl_ne claimed rest drest s
  have hcommit : nmiCommit r u = { u with tsc := if r.accepted then s.tsc + r.cycles else s.tsc } := by
    split at hcycles
    · next hacc =>
      rw [nmiCommit_of_accepted ho hacc, if_pos hacc]
      exact commitStep_of_kept (Nat.le_add_right _ _) hcycles.1 hcycles.2 (Nat.zero_le _)
    · next hacc =>
      rw [nmiCommit_of_refused ho (Bool.eq_false_of_not_eq_true hacc) hcycles rfl, if_neg hacc]
      rfl
  rw [exec_nmi_inFrame hr hf hcpu hlen hdev, nmiReturn_eq (nmiCalled_ctrl_ne _ _ _ _)]
  exact congrArg _ ((congrArg (endCmd _ 0) hcommit).trans (endCmd_eq_replied (s := { u with tsc := _ }) hu))

end Sys2Proof.Machine

namespace Sys2Proof.Machine

/-! RUN_FRAME's run (R197, R207, R209). -/

/-- Where RUN_FRAME can stand: it tells the devices of the boundary, it is in a step of the CPU or in a device's `read` or
`write` within one, it faulted, or it replied OK at or beyond N. -/
def RunFrameRun (s : State) : Prop :=
  (∃ k, s.pend = .notify k (.boundary .runFrame)) ∨ cpuCallOf s.pend = some (.step false) ∨
  (s.pend = .idle ∧ (s.ctrl = .faulted ∨ (s.cfg.n ≤ s.tsc.toNat ∧ s.result = .ok)))

theorem RunFrameRun.stopCmd {s : State} (hs : s.ctrl = .faulted) : RunFrameRun (stopCmd s) := .inr (.inr ⟨rfl, .inl hs⟩)

/-- The loop begins a step below N and ends at or beyond it (R197). -/
theorem RunFrameRun.loop (s : State) : RunFrameRun (runFrameLoop s) := by
  by_cases hs : s.ctrl = .faulted
  · unfold runFrameLoop
    split
    · exact .inr (.inl rfl)
    · rw [endCmd_of_faulted hs]
      exact .stopCmd hs
  · rw [runFrameLoop_eq hs]
    split
    · next hn => exact .inr (.inr ⟨rfl, .inr ⟨hn, rfl⟩⟩)
    · exact .inr (.inl rfl)

theorem RunFrameRun.ensure (s : State) : RunFrameRun (ensure .runFrame s) := by
  rw [ensure_eq]
  split
  · unfold tellDevices
    split
    · exact .loop { wrap s with ctrl := .running }
    · exact .inl ⟨0, rfl⟩
  · exact .loop { s with ctrl := .running }

theorem RunFrameRun.stepReturn (r : CpuReply) (s : State) : RunFrameRun (stepReturn false r s) := by
  have hend : ∀ t : State, RunFrameRun (if t.ctrl = .faulted then Machine.stopCmd t else runFrameLoop t) := fun t => by
    split
    · next hs => exact .stopCmd hs
    · exact .loop t
  exact hend _

/-- A word, a command or a return of the CPU in one of RUN_FRAME's steps (R192, R193, R354). -/
theorem RunFrameRun.cpuEvent {s : State} (h : Inv s) (hp : s.pend = .cpu (.step false)) (e : CpuEvent) :
    RunFrameRun (cpuEvent (.step false) e s) := by
  have hcall : cpuCallOf s.pend = some (.step false) := by rw [hp]; rfl
  cases e with
  | command w => exact .inr (.inl ((congrArg cpuCallOf (raise_pend _ s)).trans hcall))
  | ret r =>
    unfold Machine.cpuEvent cpuReturn
    dsimp only
    split
    · next hs => exact .stopCmd hs
    · exact .stepReturn r s
  | bus w =>
    unfold Machine.cpuEvent
    dsimp only
    split
    · exact .inr (.inl ((h.serveBus_call _).trans hcall))
    · exact .inr (.inl ((congrArg cpuCallOf (raise_pend _ _)).trans hcall))

theorem RunFrameRun.noticeEvent {s : State} {k : Nat} (hp : s.pend = .notify k (.boundary .runFrame)) (e : DevEvent) :
    RunFrameRun (noticeEvent k (.boundary .runFrame) e s) := by
  cases e with
  | command w => exact .inl ⟨k, (raise_pend _ s).trans hp⟩
  | ret data claim =>
    unfold Machine.noticeEvent
    dsimp only
    split
    · next hs => exact .stopCmd hs
    · split
      · exact .inl ⟨k + 1, rfl⟩
      · exact .loop { wrap s with ctrl := .running }

theorem RunFrameRun.micro {s t : State} (hm : micro s = some t) (h : Inv s) (hrun : RunFrameRun s) : RunFrameRun t := by
  obtain ⟨c, e, es, hp, -, rfl⟩ | ⟨c, d, w, e, es, hp, -, rfl⟩ | ⟨k, n, e, es, hp, -, rfl⟩ := micro_cases hm <;>
    simp only [RunFrameRun, hp, cpuCallOf, reduceCtorEq, exists_false, false_and, false_or, or_false, Option.some.injEq,
      Pend.notify.injEq] at hrun
  · subst hrun
    exact RunFrameRun.cpuEvent (s := { s with cpuIn := es }) h.keep hp e
  · subst hrun
    have hs : ServingInv (.step false) { s with devIn := es } :=
      (Inv.keep (t := { s with devIn := es }) h).serving (by rw [hp]; rfl) (.inl ⟨_, rfl⟩)
    exact .inr (.inl (hs.ioEvent hp e).call)
  · obtain ⟨j, -, rfl⟩ := hrun
    exact RunFrameRun.noticeEvent (s := { s with devIn := es }) hp e

theorem RunFrameRun.settleAll {s : State} (h : Inv s) (hrun : RunFrameRun s) : RunFrameRun (settleAll s) :=
  (settleAll_keeps (fun t => Inv t ∧ RunFrameRun t) (fun _ _ hm ht => ⟨ht.1.micro hm, .micro hm ht.1 ht.2⟩) s
    ⟨h, hrun⟩).2

/-- From an idle state RUN_FRAME is refused in FAULTED or runs (R191). -/
theorem RunFrameRun.exec {s t : State} (h : Inv s) (hp : s.pend = .idle) (he : exec .runFrame s = .next t) :
    RunFrameRun t := by
  have hready : s.ctrl ≠ .faulted → Performing s.performing := fun hs =>
    ⟨h.core.keep, rfl, hs, h.loggedBy_tsc (by simp [hp, cpuCallOf]) hs⟩
  cases he
  obtain ⟨hb, -⟩ | ⟨-, hs, ha⟩ | ⟨-, hl, -⟩ | ⟨hr, -, ha⟩ :=
    accept_cases true (fun s => Machine.settleAll (Machine.ensure .runFrame s)) s
  · exact absurd (hb.symm.trans (h.not_busy hp)) (by decide)
  · rw [ha]
    exact .inr (.inr ⟨hp, .inl hs⟩)
  · cases hl
  · rw [ha]
    exact .settleAll ((hready hr.2).inv_ensure rfl) (.ensure s.performing)

/-- Settles O22: an ended run is FAULTED or at or beyond N, where the invariant gives the bound and the idle rule. -/
theorem runFrameBoundary : Obligations.RunFrameBoundary := by
  intro s t h hb he hidle
  have hp : s.pend = .idle := by
    by_contra hp
    exact Bool.false_ne_true (hb.symm.trans (h.busy_of_pend hp))
  have ht : Inv t := h.exec (fun _ => hp) he
  obtain ⟨k, hk⟩ | hcall | ⟨-, hf | ⟨hn, hres⟩⟩ := RunFrameRun.exec h hp he
  · exact absurd (hk.symm.trans hidle) nofun
  · rw [hidle] at hcall
    cases hcall
  · exact .inl hf
  · by_cases hf : t.ctrl = .faulted
    · exact .inl hf
    · exact .inr ⟨hn, ht.clock.1, (ht.idle.2 hidle hf).trans (if_pos hn), hres⟩

end Sys2Proof.Machine

namespace Sys2Proof.Machine

/-! RUN_FRAME with a CPU whose steps return at once (R192, R195, R197). -/

/-- The time at which step `k` of a script begins that the CPU runs from TSC (R164). -/
def stepTime (s : State) (rs : List CpuReply) (k : Nat) : Nat := s.tsc.toNat + ((rs.take k).map fun r => r.cycles.toNat).sum

theorem stepTime_succ (s : State) {rs : List CpuReply} {k : Nat} (hk : k < rs.length) :
    stepTime s rs (k + 1) = stepTime s rs k + rs[k].cycles.toNat := by
  rw [stepTime, stepTime, List.take_succ_eq_append_getElem hk, List.map_append, List.sum_append, Nat.add_assoc]
  simp

/-- The calls of the CPU for steps 0 to `k - 1`, newest first (R192). -/
def stepCalls (s : State) (rs : List CpuReply) (k : Nat) : List AgentCall :=
  (List.range k).reverse.map fun j => .cpuStep (BitVec.ofNat 32 (stepTime s rs j)) false

theorem stepCalls_succ (s : State) (rs : List CpuReply) (k : Nat) :
    stepCalls s rs (k + 1) = .cpuStep (BitVec.ofNat 32 (stepTime s rs k)) false :: stepCalls s rs k := by
  rw [stepCalls, List.range_succ, List.reverse_append]
  rfl

/-- RUN_FRAME in its step `k`, with `cpu` still to be said by the CPU (R192). -/
def State.inScriptStep (rs : List CpuReply) (k : Nat) (cpu : List CpuEvent) (s : State) : State :=
  { s with busy := true, ctrl := .running, pend := .cpu (.step false), tsc := BitVec.ofNat 32 (stepTime s rs k),
           stepStart := BitVec.ofNat 32 (stepTime s rs k), lastBusTs := BitVec.ofNat 32 (stepTime s rs k),
           busUsed := false, waitsGiven := 0, calls := stepCalls s rs (k + 1) ++ s.calls, cpuIn := cpu }

/-- What the CPU still says from reply `k` of its script on. -/
def scriptFrom (rs : List CpuReply) (rest : List CpuEvent) (k : Nat) : List CpuEvent := (rs.drop k).map CpuEvent.ret ++ rest

theorem scriptFrom_cons {rs : List CpuReply} (rest : List CpuEvent) {k : Nat} (hk : k < rs.length) :
    scriptFrom rs rest k = .ret rs[k] :: scriptFrom rs rest (k + 1) := by
  rw [scriptFrom, List.drop_eq_getElem_cons hk]
  rfl

/-- Step `k` returned and its cycles were added (R164). -/
def State.scriptStepDone (rs : List CpuReply) (k : Nat) (cpu : List CpuEvent) (s : State) : State :=
  { s.inScriptStep rs k cpu with tsc := BitVec.ofNat 32 (stepTime s rs (k + 1)) }

/-- Below N the next step begins (R197). -/
theorem beginStep_scriptStepDone (s : State) (rs : List CpuReply) (k : Nat) (cpu : List CpuEvent) :
    beginStep false false (s.scriptStepDone rs k cpu) = s.inScriptStep rs (k + 1) cpu := by
  rw [State.inScriptStep, stepCalls_succ s rs (k + 1)]
  rfl

section
variable {s : State} {rs : List CpuReply} {rest : List CpuEvent}
  (hkept : ∀ r ∈ rs, r.outcome.toNat < 2 ∧ 1 ≤ r.cycles.toNat ∧ r.cycles.toNat ≤ s.cfg.n)
include hkept

/-- Reply `k` ends step `k`: its cycles are added and the loop test follows, BREAK or not (R195, R197). -/
theorem settle_inScriptStep {k : Nat} (hk : k < rs.length) (m : Nat) :
    settle (m + 1) (s.inScriptStep rs k (scriptFrom rs rest k))
      = settle m (runFrameLoop (s.scriptStepDone rs k (scriptFrom rs rest (k + 1)))) := by
  obtain ⟨ho, hpos, hn⟩ := hkept rs[k] (List.getElem_mem hk)
  have htsc : BitVec.ofNat 32 (stepTime s rs k) + rs[k].cycles = BitVec.ofNat 32 (stepTime s rs (k + 1)) := by
    rw [stepTime_succ s hk, BitVec.ofNat_add, BitVec.ofNat_toNat, BitVec.setWidth_eq]
  have hcommit : commitStep rs[k].cycles (s.inScriptStep rs k (scriptFrom rs rest (k + 1)))
      = s.scriptStepDone rs k (scriptFrom rs rest (k + 1)) := by
    rw [State.scriptStepDone, ← htsc]
    exact commitStep_of_kept (Nat.le_add_right _ _) hpos hn (Nat.zero_le _)
  rw [settle_cpu (s := s.inScriptStep rs k (scriptFrom rs rest k)) rfl (scriptFrom_cons rest hk)]
  exact congrArg (settle m) (stepReturn_of_commit ho hcommit nofun)

variable (hlt : s.cfg.n < 2 ^ 31) (hbelow : ∀ k, k < rs.length → stepTime s rs k < s.cfg.n)
include hlt hbelow

/-- Each step ends below 2N, so TSC holds its time (R23). -/
theorem stepTime_succ_lt {k : Nat} (hk : k < rs.length) : stepTime s rs (k + 1) < 2 ^ 32 := by
  obtain ⟨-, -, hn⟩ := hkept rs[k] (List.getElem_mem hk)
  have := hbelow k hk
  rw [stepTime_succ s hk]
  omega

/-- The loop test after step `k` (R197). -/
theorem runFrameLoop_scriptStepDone {k : Nat} (hk : k < rs.length) (cpu : List CpuEvent) :
    runFrameLoop (s.scriptStepDone rs k cpu) =
      if s.cfg.n ≤ stepTime s rs (k + 1) then (s.scriptStepDone rs k cpu).replied .ok 0
      else s.inScriptStep rs (k + 1) cpu := by
  have htime : (s.scriptStepDone rs k cpu).tsc.toNat = stepTime s rs (k + 1) :=
    Nat.mod_eq_of_lt (stepTime_succ_lt hkept hlt hbelow hk)
  rw [runFrameLoop_eq (s := s.scriptStepDone rs k cpu) nofun, htime, beginStep_scriptStepDone]
  rfl

/-- While the steps begin below N, one step follows the other (R197). -/
theorem settle_script (k : Nat) (hk : k < rs.length) (m : Nat) :
    settle (k + m) (s.inScriptStep rs 0 (scriptFrom rs rest 0)) = settle m (s.inScriptStep rs k (scriptFrom rs rest k)) := by
  induction k generalizing m with
  | zero => rw [Nat.zero_add]
  | succ k ih =>
    have hk' : k < rs.length := Nat.lt_of_succ_lt hk
    rw [Nat.add_right_comm, Nat.add_assoc, ih hk', settle_inScriptStep hkept hk',
      runFrameLoop_scriptStepDone hkept hlt hbelow hk', if_neg (Nat.not_le.2 (hbelow _ hk))]

end

/-- RUN_FRAME within the frame begins the first step (R196, R197). -/
theorem ensure_runFrame_inFrame {s : State} (hf : s.InFrame) (rs : List CpuReply) :
    ensure .runFrame s.performing = s.inScriptStep rs 0 s.cpuIn := by
  have hzero : BitVec.ofNat 32 (stepTime s rs 0) = s.tsc := BitVec.ofNat_toNat ..
  rw [ensure_of_inFrame (s := s.performing) hf, State.inScriptStep, stepCalls_succ, hzero]
  exact if_pos hf

/-- Settles O21: the script's steps one after the other, the last of which passes N. -/
theorem runFrameScript : Obligations.RunFrameScript := by
  intro s rs rest start hr hf hlt hq hkept hbelow hend
  have hpos : rs.length ≠ 0 := fun h0 => by
    rw [h0] at hend
    exact absurd hf (Nat.not_lt.2 hend)
  obtain ⟨last, hlen⟩ : ∃ last, rs.length = last + 1 := Nat.exists_eq_succ_of_ne_zero hpos
  have hk : last < rs.length := by omega
  have hdone : scriptFrom rs rest (last + 1) = rest := by simp [scriptFrom, ← hlen]
  have hfuel : pendingEvents (s.inScriptStep rs 0 (scriptFrom rs rest 0)) = last + (rest.length + s.devIn.length + 1) := by
    simp only [pendingEvents, State.inScriptStep, scriptFrom, List.drop_zero, List.length_append, List.length_map]
    omega
  have hover : s.cfg.n ≤ stepTime s rs (last + 1) := hlen ▸ hend
  have hcpu : s.cpuIn = scriptFrom rs rest 0 := hq
  rw [exec_ensured_ready rfl hr rfl, ensure_runFrame_inFrame hf rs, hcpu, settleAll, hfuel,
    settle_script hkept hlt hbelow last hk, settle_inScriptStep hkept hk,
    runFrameLoop_scriptStepDone hkept hlt hbelow hk, if_pos hover, settle_idle rfl, hdone, hlen]
  rfl

end Sys2Proof.Machine

namespace Sys2Proof.Machine

/-! MAP_ROM_BANK and MAP_RAM_BANK out of range (R241, R253, R254, R260). -/

/-- A slot or a bank out of range is CONFIG, never clamped (R241). -/
theorem remap_of_not_ok {i : Nat} {t : Target} {s : State} (h : ¬ (i < s.cfg.slotCount ∧ targetOk s.cfg t = true)) :
    remap i t s = raise .config s := if_neg h

/-- Within the frame a command that is one `remap` out of range ends with CONFIG (R253, R254). -/
theorem hostCommand_remap_config {c : Cmd} {i : Nat} {t : Target} {s : State} (hr : s.Ready) (hf : s.InFrame)
    (hc : afterEnsure c s.performing = writeThenNote (remap i t) s.performing)
    (h : ¬ (i < s.cfg.slotCount ∧ targetOk s.cfg t = true)) :
    hostCommand true (fun s => settleAll (ensure c s)) s = .next (s.stopped .config) := by
  have hraise : remap i t s.performing = raise .config s.performing := remap_of_not_ok h
  rw [hostCommand_inFrame hr hf (by rw [hc]; exact writeThenNote_pend _ _), hc, writeThenNote_of_raise hraise hr.2]
  rfl

/-- The slots and banks a mapping command refuses are those `remap` refuses (R241). -/
theorem not_targetOk_of_outOfRange {c : Cfg} {i : Nat} {t : Target} (h : c.slotCount ≤ i ∨ poolSize c t.kind ≤ t.bank) :
    ¬ (i < c.slotCount ∧ targetOk c t = true) := by
  rintro ⟨hi, hok⟩
  have hbank : t.bank < poolSize c t.kind := of_decide_eq_true hok
  omega

/-- Settles O29, by the one `remap` of each command. -/
theorem mapBankConfig : Obligations.MapBankConfig := by
  intro s slot bank hr hf
  refine ⟨fun h => ?_, fun h => ?_⟩
  · exact hostCommand_remap_config (c := .mapRomBank slot bank) hr hf rfl
      (not_targetOk_of_outOfRange (t := ⟨.rom, .fixed, bank.toNat⟩) h)
  · exact hostCommand_remap_config (c := .mapRamBank slot bank) hr hf rfl
      (not_targetOk_of_outOfRange (t := ⟨.ram, .fixed, bank.toNat⟩) h)

/-! The contention delay (R256). -/

theorem delay_of_before {c : Cfg} {ts : Nat} (h : ts < c.contStart) : delay c ts = 0 := if_pos h

theorem delay_of_after {c : Cfg} {ts : Nat} (h : c.contStart + c.contLines * c.l ≤ ts) : delay c ts = 0 := by
  have hstart : ¬ ts < c.contStart := by omega
  have hend : c.contLines * c.l ≤ ts - c.contStart := by omega
  simp only [delay, if_neg hstart, if_pos hend]

/-- Time `h` after the start of line `line` is within the contended lines, at position `h` of its line. -/
theorem delay_of_line {c : Cfg} {line h : Nat} (hline : line < c.contLines) (hh : h < c.l) :
    delay c (c.contStart + line * c.l + h) = if h < c.contWindow then c.contPattern.getD (h % 8) 0 else 0 := by
  have hstart : ¬ c.contStart + line * c.l + h < c.contStart := by omega
  have htime : c.contStart + line * c.l + h - c.contStart = h + line * c.l := by omega
  have hend : ¬ c.contLines * c.l ≤ h + line * c.l := by
    have := Nat.mul_le_mul_right c.l (Nat.succ_le_of_lt hline)
    rw [Nat.succ_mul] at this
    omega
  have hpos : (h + line * c.l) % c.l = h := by rw [Nat.add_mul_mod_self_right, Nat.mod_eq_of_lt hh]
  simp only [delay, if_neg hstart, htime, if_neg hend, hpos]
  by_cases hw : h < c.contWindow
  · rw [if_neg (Nat.not_le.2 hw), if_pos hw]
  · rw [if_pos (Nat.not_lt.1 hw), if_neg hw]

/-- Settles O32, by where the time falls. -/
theorem contentionDelay : Obligations.ContentionDelay :=
  ⟨fun _ _ _ => delay_of_line, fun _ _ h => h.elim delay_of_before delay_of_after, by decide⟩

/-! The wait of an I/O cycle, held by WAIT or not (R118, R258). -/

/-- An I/O cycle whose wait WAIT does not hold is CONFIG, and the port is not reached (R12; log entry 19). -/
theorem busCycle_of_unheldWait {s : State} {p : Addr} {ts : Stamp} (hs : s.Serving) (ht : s.StampOk ts)
    (hwide : 2 ^ 32 ≤ ioDelay s p ts) (f : CpuCall → BitVec 32 → State → State) :
    busCycle ts (fun c s => withWait (ioWait p ts s) (f c) s) s = s.busFaulted ts .config := by
  obtain ⟨c, -, hc⟩ := busCycle_serving (fun c s => withWait (ioWait p ts s) (f c) s) hs ht
  have hwait : ioWait p ts (s.atBus ts) = waitOf (ioDelay s p ts) := ioWait_eq p ts (s.atBus ts)
  rw [hc, hwait, withWait_atBus hs.1]
  exact if_neg (Nat.not_lt.2 hwide)

/-- Settles O33: `io_wait` is the delays met, and what WAIT does not hold stops the cycle before its port. -/
theorem ioCycleWait : Obligations.IoCycleWait := by
  intro s p ts
  refine ⟨fun hlt => ?_, fun hwide hs ht => ⟨?_, fun v => ?_⟩, ?_⟩
  · have hw : ioDelay s p ts = (BitVec.ofNat 32 (ioDelay s p ts)).toNat := (Nat.mod_eq_of_lt hlt).symm
    exact ⟨_, (ioWait_eq p ts s).trans (waitOf_eq_some.2 hw), hw.symm⟩
  · exact (onBus_serving (serveIoRead p ts) hs).trans
      (congrArg _ (busCycle_of_unheldWait hs ht hwide fun c w => portRead c p ts w))
  · exact (onBus_serving (serveIoWrite v p ts) hs).trans
      (congrArg _ (busCycle_of_unheldWait hs ht hwide fun c w => portWrite c p v ts w))
  · rw [ioWait_eq]
    decide

end Sys2Proof.Machine

namespace Sys2Proof.Machine

/-! A second `note` with nothing written in between appends nothing (R293). -/

theorem noteOne_of_not_recorded {ts : Stamp} {id : LogId} {s : State} (h : recorded s id = false) :
    noteOne ts id s = s := by
  rw [noteOne_eq, h]
  exact if_neg Bool.false_ne_true

/-- Where no sub-log's effective value differs from LAST, `note` appends nothing (R293). -/
theorem note_of_not_recorded {s : State} (h : ∀ id, recorded s id = false) (ts : Stamp) : note ts s = s :=
  note_induct (· = s) ts s rfl fun id t _ ht => by
    rw [ht]
    exact noteOne_of_not_recorded (h id)

theorem recorded_raise (b : FaultBit) (s : State) (id : LogId) : recorded (raise b s) id = recorded s id := by
  unfold raise
  split <;> rfl

/-- After its turn a sub-log's LAST is its effective value, unless the append faulted (R292). -/
theorem recorded_noteOne_same {ts : Stamp} {id : LogId} {s : State} (h : (noteOne ts id s).ctrl ≠ .faulted) :
    recorded (noteOne ts id s) id = false := by
  cases hrec : recorded s id with
  | false => rw [noteOne_of_not_recorded hrec, hrec]
  | true =>
    rw [noteOne_eq, hrec, if_pos rfl] at h ⊢
    obtain ⟨-, he⟩ | ⟨-, -, he⟩ | ⟨-, -, he⟩ := logAppend_cases id ts (eff s id) s
    · exact absurd (by rw [he]; exact raise_ctrl _ s) h
    · exact absurd (by rw [he]; exact raise_ctrl _ s) h
    · rw [he, recorded, logOf_setLog_same]
      exact Bool.and_eq_false_imp.2 fun _ => bne_self_eq_false _

/-- A turn of `note` does not make a sub-log differ (R293). -/
theorem recorded_noteOne {ts : Stamp} {id j : LogId} {s : State} (h : recorded s j = false) :
    recorded (noteOne ts id s) j = false := by
  by_cases hj : j = id
  · rw [← hj, noteOne_of_not_recorded h, h]
  rw [noteOne_eq]
  split
  · obtain ⟨-, he⟩ | ⟨-, -, he⟩ | ⟨-, -, he⟩ := logAppend_cases id ts (eff s id) s
    · rw [he, recorded_raise, h]
    · rw [he, recorded_raise, h]
    · rw [he, recorded, logOf_setLog_other _ _ hj]
      exact h
  · exact h

/-- Unless a fault was raised, no sub-log of `l` differs from its effective value. -/
def State.UpToDate (l : List LogId) (s : State) : Prop := s.ctrl ≠ .faulted → ∀ id ∈ l, recorded s id = false

theorem State.UpToDate.turn {l : List LogId} {s : State} (h : s.UpToDate l) (ts : Stamp) (id : LogId) :
    (unlessFaulted (noteOne ts id) s).UpToDate (id :: l) := by
  intro hc j hj
  by_cases hs : s.ctrl = .faulted
  · rw [unlessFaulted_of_faulted hs] at hc
    exact absurd hs hc
  rw [unlessFaulted_of_not hs] at hc ⊢
  obtain rfl | hj := List.mem_cons.1 hj
  · exact recorded_noteOne_same hc
  · exact recorded_noteOne (h hs j hj)

/-- After a `note` that did not fault nothing is left to append (R293). -/
theorem recorded_note {ts : Stamp} {s : State} (h : (note ts s).ctrl ≠ .faulted) (id : LogId) :
    recorded (note ts s) id = false := by
  have hstart : s.UpToDate [] := nofun
  have hall : (note ts s).UpToDate [.source, .shadow, .mode, .border] :=
    (((hstart.turn ts .border).turn ts .mode).turn ts .shadow).turn ts .source
  exact hall h id (by cases id <;> simp)

/-! A write that has nothing left to change ends its command with OK alone. -/

/-- A register or mapping command that did not fault: its write, its `note`, its reply (R252, R372). -/
theorem writeThenNote_of_ended {write : State → State} {s : State} (h : (writeThenNote write s).ctrl ≠ .faulted) :
    (write s).ctrl ≠ .faulted ∧ (note (write s).tsc (write s)).ctrl ≠ .faulted ∧
      writeThenNote write s = (note (write s).tsc (write s)).replied .ok 0 := by
  unfold writeThenNote at h ⊢
  have hend : ∀ u : State, (endCmd .ok 0 u).ctrl ≠ .faulted → u.ctrl ≠ .faulted := fun u hu hf =>
    hu (by rw [endCmd_of_faulted hf]; exact hf)
  have hnoted := hend _ h
  have hw : (write s).ctrl ≠ .faulted := fun hf => hnoted (by rw [unlessFaulted_of_faulted hf]; exact hf)
  rw [unlessFaulted_of_not hw] at hnoted ⊢
  exact ⟨hw, hnoted, endCmd_eq_replied hnoted⟩

/-- A write that changes nothing, in a state whose log is up to date, is answered OK with nothing logged (R293). -/
theorem writeThenNote_of_unchanged {write : State → State} {s : State} (hw : write s.performing = s.performing)
    (hc : s.ctrl ≠ .faulted) (hrec : ∀ id, recorded s id = false) :
    writeThenNote write s.performing = s.replied .ok 0 := by
  have hnote : note s.performing.tsc s.performing = s.performing :=
    note_of_not_recorded (s := s.performing) hrec s.performing.tsc
  rw [writeThenNote, hw, unlessFaulted_of_not (s := s.performing) hc, hnote, endCmd_eq_replied (s := s.performing) hc]
  rfl

/-! `change_mem_paged` asked again for what it mapped (R248, R249). -/

/-- Every slot has the wanted SRC. -/
def State.MappedAs (want : Nat → SlotSrc) (s : State) : Prop :=
  s.slots.length = s.cfg.slotCount ∧ ∀ i, i < s.cfg.slotCount → (slotEntry s.slots i).src = want i

/-- The entry `change_mem_paged` leaves in a slot has the SRC asked for (R248). -/
theorem pagedEntry_src {want : Nat → SlotSrc} (hwant : ∀ i, want i ≠ .fixed) (s : State) (i : Nat) :
    (pagedEntry want s i).src = want i := by
  unfold pagedEntry pagedTarget
  by_cases hsrc : want i = (slotEntry s.slots i).src
  · rw [if_pos hsrc]
    exact hsrc.symm
  · rw [if_neg hsrc]
    cases hw : want i with
    | home => exact homeTarget_src s.cfg s.paging i
    | ex => rfl
    | dock => rfl
    | fixed => exact absurd hw (hwant i)

theorem slotEntry_map_range (f : Nat → Slot) {n i : Nat} (h : i < n) : slotEntry ((List.range n).map f) i = f i := by
  simp [slotEntry, h]

/-- A table is the list of its entries. -/
theorem map_slotEntry (slots : List Slot) : (List.range slots.length).map (slotEntry slots) = slots := by
  refine List.ext_getElem (by simp) fun i hi hi' => ?_
  simp [slotEntry, hi']

theorem mappedAs_changeMemPaged {want : Nat → SlotSrc} {s : State} (hwant : ∀ i, want i ≠ .fixed)
    (h : (changeMemPaged want s).ctrl ≠ .faulted) : (changeMemPaged want s).MappedAs want := by
  obtain ⟨-, -, he⟩ | ⟨-, -, he⟩ | ⟨-, he⟩ := changeMemPaged_cases want s
  · rw [he]
    refine ⟨by simp, fun i hi => ?_⟩
    rw [slotEntry_map_range _ hi, pagedEntry_src hwant]
  · exact absurd (by rw [he]; exact raise_ctrl _ s) h
  · exact absurd (by rw [he]; exact raise_ctrl _ s) h

/-- Where every slot has the wanted SRC, `change_mem_paged` changes nothing (R249). -/
theorem changeMemPaged_of_mappedAs {want : Nat → SlotSrc} {s : State} (h : s.MappedAs want) :
    changeMemPaged want s = s := by
  obtain ⟨hlen, hsrc⟩ := h
  have htarget : ∀ i, i < s.cfg.slotCount → pagedTarget s (want i) i = none := fun i hi => if_pos (hsrc i hi).symm
  have hplan : ∀ ok, pagedPlan ok want s = true := fun ok =>
    List.all_eq_true.2 fun i hi => by rw [htarget i (List.mem_range.1 hi)]; rfl
  have hslots : (List.range s.cfg.slotCount).map (pagedEntry want s) = s.slots := by
    rw [← hlen] at htarget ⊢
    refine .trans ?_ (map_slotEntry s.slots)
    refine List.map_congr_left fun i hi => ?_
    rw [pagedEntry, htarget i (List.mem_range.1 hi)]
  rw [changeMemPaged, hplan, hplan, if_pos rfl, if_pos rfl, hslots]

theorem scldMapping_ne_fixed (s : State) (i : Nat) : scldMapping s i ≠ .fixed := wantedSrc_ne_fixed s.hsr (poolSel s) i

/-- HSR, POOL_SEL and the table are as MAP_PAGED leaves them (R252). -/
structure State.PagedAs (pool : Bool) (mask : BitVec 8) (s : State) : Prop where
  hsr     : s.hsr = mask
  poolSel : poolSel s = pool
  mapped  : s.MappedAs (wantedSrc mask pool)

/-- The log and the reply of a command leave what MAP_PAGED wrote. -/
theorem State.PagedAs.keep {pool : Bool} {mask : BitVec 8} {s t : State} (h : s.PagedAs pool mask) (hcfg : t.cfg = s.cfg)
    (hmode : t.mode = s.mode) (hhsr : t.hsr = s.hsr) (hslots : t.slots = s.slots) : t.PagedAs pool mask := by
  obtain ⟨hmask, hpool, hmap⟩ := h
  refine ⟨hhsr.trans hmask, (congrArg (·.getLsbD 7) hmode).trans hpool, ?_⟩
  rwa [State.MappedAs, hslots, hcfg]

theorem scldMapping_pagedAsked (pool : Bool) (mask : BitVec 8) (s : State) :
    scldMapping (s.pagedAsked pool mask) = wantedSrc mask pool := by
  funext i
  rw [scldMapping, poolSel_pagedAsked]
  rfl

theorem mapPagedWrite_pagedAs {pool : Bool} {mask : BitVec 8} {s : State}
    (h : (mapPagedWrite pool mask s).ctrl ≠ .faulted) : (mapPagedWrite pool mask s).PagedAs pool mask := by
  rw [mapPagedWrite_eq] at h ⊢
  have hpool := poolSel_pagedAsked pool mask s
  have hmap : (applyScld (s.pagedAsked pool mask)).MappedAs (scldMapping (s.pagedAsked pool mask)) :=
    mappedAs_changeMemPaged (scldMapping_ne_fixed _) h
  refine ⟨applyScld_hsr _, (congrArg (·.getLsbD 7) (applyScld_mode _)).trans hpool, ?_⟩
  rwa [scldMapping_pagedAsked] at hmap

/-- The same MAP_PAGED again writes what is there (R249). -/
theorem mapPagedWrite_of_pagedAs {pool : Bool} {mask : BitVec 8} {s : State} (h : s.PagedAs pool mask) :
    mapPagedWrite pool mask s = s := by
  obtain ⟨rfl, rfl, hmap⟩ := h
  have hmode : ∀ m : BitVec 8, BitVec.ofBool (m.getLsbD 7) ++ m.extractLsb' 0 7 = m := by decide
  have hsame : { s with hsr := s.hsr, mode := BitVec.ofBool (poolSel s) ++ s.mode.extractLsb' 0 7 } = s :=
    congrArg (fun m => { s with mode := m }) (hmode s.mode)
  rw [mapPagedWrite, hsame]
  exact changeMemPaged_of_mappedAs hmap

/-! Where a command that ends at once after `ensure()` can stand (R166, R196). -/

/-- The command `c` under the record `g` still tells the devices of the boundary, it faulted, or it was done in a frame. -/
def EnsuredRun (c : Cmd) (g : Cfg) (s : State) : Prop :=
  ((∃ k, s.pend = .notify k (.boundary c)) ∧ s.busy = true ∧ s.cfg = g ∧ g.n ≤ s.tsc.toNat ∧ s.tsc.toNat < 2 * g.n) ∨
  (s.pend = .idle ∧ s.ctrl = .faulted) ∨
  ∃ u : State, u.InFrame ∧ u.cfg = g ∧ s = afterEnsure c u

section
variable {c : Cmd} {g : Cfg}

/-- At the boundary the frame wraps and the command is done in the new frame (R166). -/
theorem EnsuredRun.wrapped {s : State} (hg : s.cfg = g) (hover : g.n ≤ s.tsc.toNat) (hlt : s.tsc.toNat < 2 * g.n) :
    EnsuredRun c g (afterEnsure c (wrap s)) := by
  subst hg
  exact .inr (.inr ⟨wrap s, wrap_inFrame_of_lt hover hlt, wrap_cfg s, rfl⟩)

theorem EnsuredRun.ensure {s : State} (hb : s.busy = true) (hg : s.cfg = g) (hlt : s.tsc.toNat < 2 * g.n) :
    EnsuredRun c g (ensure c s) := by
  rw [ensure_eq]
  split
  · next hover =>
    have hn : g.n ≤ s.tsc.toNat := hg ▸ of_decide_eq_true hover
    unfold tellDevices
    split
    · exact .wrapped hg hn hlt
    · exact .inl ⟨⟨0, rfl⟩, hb, hg, hn, hlt⟩
  · next hover => exact .inr (.inr ⟨s, Nat.lt_of_not_le fun hn => hover (decide_eq_true hn), hg, rfl⟩)

theorem EnsuredRun.noticeEvent {s : State} {k : Nat} (hp : s.pend = .notify k (.boundary c)) (hb : s.busy = true)
    (hg : s.cfg = g) (hover : g.n ≤ s.tsc.toNat) (hlt : s.tsc.toNat < 2 * g.n) (e : DevEvent) :
    EnsuredRun c g (noticeEvent k (.boundary c) e s) := by
  unfold Machine.noticeEvent
  cases e with
  | command w =>
    exact .inl ⟨⟨k, (raise_pend _ s).trans hp⟩, by simpa using hb, by simpa using hg, by simpa using hover,
      by simpa using hlt⟩
  | ret data claim =>
    dsimp only
    split
    · next hs => exact .inr (.inl ⟨rfl, hs⟩)
    · split
      · exact .inl ⟨⟨k + 1, rfl⟩, hb, hg, hover, hlt⟩
      · exact .wrapped hg hover hlt

theorem EnsuredRun.micro (hend : ∀ u, (afterEnsure c u).pend = .idle) {s t : State} (hm : micro s = some t)
    (h : EnsuredRun c g s) : EnsuredRun c g t := by
  have hidle : s.pend ≠ .idle := fun hp => by
    rw [micro_idle hp] at hm
    cases hm
  obtain ⟨⟨k, hp⟩, hb, hg, hover, hlt⟩ | ⟨hp, -⟩ | ⟨u, -, -, rfl⟩ := h
  · obtain ⟨e, es, rfl⟩ := micro_of_notify hp hm
    exact EnsuredRun.noticeEvent (s := { s with devIn := es }) hp hb hg hover hlt e
  · exact absurd hp hidle
  · exact absurd (hend u) hidle

/-- A command that ended outside FAULTED was refused, or it was done in a frame (R191, R196). -/
theorem exec_ensured_ended {i : Instr} (hi : ensuredCmd i = some c) (hend : ∀ u, (afterEnsure c u).pend = .idle)
    {s t : State} (hlt : s.tsc.toNat < 2 * s.cfg.n) (he : exec i s = .next t) (hc : t.ctrl ≠ .faulted)
    (hb : t.busy = false) :
    (s.Ready ∧ cmdLegal s.cfg.variant c = false ∧ t = s.refusedReply) ∨
    (cmdLegal s.cfg.variant c = true ∧ ∃ u : State, u.InFrame ∧ u.cfg = s.cfg ∧ t = afterEnsure c u) := by
  rw [exec_of_ensuredCmd hi] at he
  cases he
  obtain ⟨-, ha⟩ | ⟨-, hf, ha⟩ | ⟨hr, hl, -⟩ | ⟨hr, hl, ha⟩ :=
    accept_cases (cmdLegal s.cfg.variant c) (fun s => settleAll (ensure c s)) s
  · exact absurd (by rw [ha]; exact raise_ctrl _ s) hc
  · exact absurd (by rw [ha]; exact hf) hc
  · exact .inl ⟨hr, hl, by rw [hl]; exact accept_illegal hr⟩
  · rw [ha] at hc hb ⊢
    have hrun : EnsuredRun c s.cfg (settleAll (ensure c s.performing)) :=
      settleAll_keeps (EnsuredRun c s.cfg) (fun _ _ => EnsuredRun.micro hend) _ (.ensure rfl rfl hlt)
    obtain ⟨-, hbusy, -⟩ | ⟨-, hf⟩ | hdone := hrun
    · exact absurd (hbusy.symm.trans hb) (by decide)
    · exact absurd hf hc
    · exact .inr ⟨hl, hdone⟩

/-- A refused command is refused again, with the same reply (R114, R416). -/
theorem exec_refused_again {i : Instr} (hi : ensuredCmd i = some c) {s : State} (hr : s.Ready)
    (hl : cmdLegal s.cfg.variant c = false) : exec i s.refusedReply = .next s.refusedReply := by
  have hl' : cmdLegal s.refusedReply.cfg.variant c = false := hl
  rw [exec_of_ensuredCmd hi, hl']
  exact congrArg _ (accept_illegal (s := s.refusedReply) hr)

end

/-- MAP_PAGED issued where it has nothing to write or log is answered OK and changes nothing else (R249). -/
theorem exec_mapPaged_unchanged {pool : Bool} {mask : BitVec 8} {s : State} (hr : s.Ready) (hf : s.InFrame)
    (hs : s.cfg.variant = .scld) (hpaged : s.PagedAs pool mask) (hrec : ∀ id, recorded s id = false) :
    exec (.mapPaged pool mask) s = .next (s.replied .ok 0) := by
  have hwrite : mapPagedWrite pool mask s.performing = s.performing :=
    mapPagedWrite_of_pagedAs (hpaged.keep rfl rfl rfl rfl)
  rw [exec_mapPaged_inFrame pool mask hr hf hs, writeThenNote_of_unchanged hwrite hr.2 hrec]

/-- MAP_PAGED done in the frame, then issued again in the state it replied in (R249, R252). -/
theorem exec_mapPaged_again {pool : Bool} {mask : BitVec 8} {s : State} (hf : s.InFrame) (hs : s.cfg.variant = .scld)
    (hc : (writeThenNote (mapPagedWrite pool mask) s).ctrl ≠ .faulted) :
    exec (.mapPaged pool mask) (writeThenNote (mapPagedWrite pool mask) s)
      = .next (writeThenNote (mapPagedWrite pool mask) s) := by
  obtain ⟨hw, hn, he⟩ := writeThenNote_of_ended hc
  have hpaged := (mapPagedWrite_pagedAs hw).keep (note_cfg (mapPagedWrite pool mask s).tsc _) (note_mode ..) (note_hsr ..)
    (note_slots ..)
  have hcfg := (note_cfg (mapPagedWrite pool mask s).tsc (mapPagedWrite pool mask s)).trans (mapPagedWrite_cfg ..)
  have htsc := (note_tsc (mapPagedWrite pool mask s).tsc (mapPagedWrite pool mask s)).trans (mapPagedWrite_tsc ..)
  have hrec := recorded_note hn
  rw [he] at hc ⊢
  generalize note (mapPagedWrite pool mask s).tsc (mapPagedWrite pool mask s) = u at hpaged hcfg htsc hrec hc ⊢
  have hframe : u.InFrame := by rwa [State.InFrame, hcfg, htsc]
  exact exec_mapPaged_unchanged (s := u.replied .ok 0) ⟨rfl, hc⟩ hframe (hcfg ▸ hs) (hpaged.keep rfl rfl rfl rfl) hrec

/-- Settles O31: MAP_PAGED was refused, or it was done in a frame, where it has nothing left to write or log. -/
theorem mapPagedTwice : Obligations.MapPagedTwice := by
  intro s t pool mask hlt he hc hb
  obtain ⟨hr, hl, rfl⟩ | ⟨hl, u, hf, hg, rfl⟩ :=
    exec_ensured_ended (c := .mapPaged pool mask) rfl (fun u => writeThenNote_pend _ u) hlt he hc hb
  · exact exec_refused_again (c := .mapPaged pool mask) rfl hr hl
  · exact exec_mapPaged_again hf (hg ▸ of_decide_eq_true hl) hc

end Sys2Proof.Machine

namespace Sys2Proof.Machine

/-! `note` at a full sub-log (R292, R293, R304): the turns before it append, its own turn faults, and no turn follows. -/

/-- `note`'s loop over the sub-logs of `l`, a fault ending it (R293). -/
def noteTurns (ts : Stamp) (l : List LogId) (s : State) : State := l.foldl (fun s id => unlessFaulted (noteOne ts id) s) s

theorem note_eq_noteTurns (ts : Stamp) (s : State) : note ts s = noteTurns ts logIds s := rfl

theorem noteTurns_append (ts : Stamp) (l l' : List LogId) (s : State) :
    noteTurns ts (l ++ l') s = noteTurns ts l' (noteTurns ts l s) := List.foldl_append

theorem noteTurns_cons (ts : Stamp) (id : LogId) (l : List LogId) (s : State) :
    noteTurns ts (id :: l) s = noteTurns ts l (unlessFaulted (noteOne ts id) s) := rfl

/-- After a fault no turn is taken (R412). -/
theorem noteTurns_of_faulted {ts : Stamp} {s : State} (h : s.ctrl = .faulted) (l : List LogId) : noteTurns ts l s = s := by
  induction l with
  | nil => rfl
  | cons id l ih => rw [noteTurns_cons, unlessFaulted_of_faulted h, ih]

/-- Turns that have nothing to append or room for it are all taken (R292, R293). -/
theorem noteTurns_of_room {ts : Stamp} {s : State} (hs : s.ctrl ≠ .faulted) {l : List LogId} (hl : l.Nodup)
    (hroom : ∀ id ∈ l, recorded s id = true →
      s.lastLogTs.toNat ≤ ts.toNat ∧ (logOf s.logs id).entries.length < s.cfg.logCapacity) :
    noteTurns ts l s = s.notedOn ts l := by
  induction l using List.reverseRecOn with
  | nil => rfl
  | append_singleton l id ih =>
    obtain ⟨hnodup, hid⟩ : l.Nodup ∧ id ∉ l := by simpa [List.nodup_append, List.forall_mem_ne'] using hl
    rw [noteTurns_append, ih hnodup fun j hj => hroom j (by simp [hj]), noteTurns_cons,
      unlessFaulted_of_not (s := s.notedOn ts l) hs, noteOne_notedOn hid (hroom id (by simp))]
    rfl

/-- The turn of a full sub-log that it would append to raises LOG_OVERFLOW (R292). -/
theorem noteOne_of_full {ts : Stamp} {l : List LogId} {s : State} {id : LogId} (hs : s.ctrl ≠ .faulted) (hid : id ∉ l)
    (hts : s.lastLogTs.toNat ≤ ts.toNat) (hrec : recorded s id = true)
    (hfull : (logOf s.logs id).entries.length = s.cfg.logCapacity) :
    noteOne ts id (s.notedOn ts l) = (s.notedOn ts l).withFault .logOverflow := by
  have horder : ¬ ts.toNat < (s.notedOn ts l).lastLogTs.toNat := by
    simp only [State.notedOn]
    split <;> omega
  have hlen : (logOf (s.notedOn ts l).logs id).entries.length = (s.notedOn ts l).cfg.logCapacity := by
    rwa [logOf_notedOn, if_neg hid]
  rw [noteOne_eq, recorded_notedOn hid, if_pos hrec, logAppend, if_neg horder, if_pos hlen]
  exact raise_eq_withFault hs

/-- Each sub-log has its turn after those before it (R293). -/
theorem logsBefore_spec (id : LogId) :
    (logsBefore id).Nodup ∧ id ∉ logsBefore id ∧ ∃ l, logIds = logsBefore id ++ id :: l := by
  refine ⟨by cases id <;> decide, by cases id <;> decide, ?_⟩
  exact ⟨logIds.drop ((logsBefore id).length + 1), by cases id <;> rfl⟩

/-- Where `id` is the first full sub-log it meets, `note` appends before it and ends with LOG_OVERFLOW (R293, R304). -/
theorem note_eq_overflowed {s : State} {ts : Stamp} {id : LogId} (hs : s.ctrl ≠ .faulted) (hfull : s.LogFull ts id) :
    note ts s = s.overflowed ts id := by
  obtain ⟨hts, hrec, hlen, hroom⟩ := hfull
  obtain ⟨hnodup, hid, l, hl⟩ := logsBefore_spec id
  have hbefore : noteTurns ts (logsBefore id) s = s.notedOn ts (logsBefore id) :=
    noteTurns_of_room hs hnodup fun j hj hj' => ⟨hts, hroom j hj hj'⟩
  calc note ts s
    _ = noteTurns ts l (unlessFaulted (noteOne ts id) (s.notedOn ts (logsBefore id))) := by
      rw [note_eq_noteTurns, hl, noteTurns_append, hbefore, noteTurns_cons]
    _ = noteTurns ts l ((s.notedOn ts (logsBefore id)).withFault .logOverflow) := by
      rw [unlessFaulted_of_not (s := s.notedOn ts (logsBefore id)) hs, noteOne_of_full hs hid hts hrec hlen]
    _ = s.overflowed ts id := noteTurns_of_faulted rfl l

/-- Settles O39, by the four turns taken. -/
theorem noteAppends : Obligations.NoteAppends := fun _ _ => note_eq_noted

/-- After `log_restart` LAST is the effective value of every sub-log (R298). -/
theorem recorded_logRestart (s : State) (id : LogId) : recorded (logRestart s) id = false := by
  have hlast : eff (logRestart s) id = (logOf (logRestart s).logs id).last := by cases id <;> rfl
  simp [recorded, hlast]

/-- Settles O40: no sub-log has anything to append. -/
theorem noteNothing : Obligations.NoteNothing := fun s ts =>
  ⟨rfl, rfl, note_of_not_recorded (recorded_logRestart s) ts⟩

end Sys2Proof.Machine

namespace Sys2Proof.Machine

/-! What ends in a `note` that meets a full sub-log (R304, R353). -/

/-- The end of a command whose `note` met the full sub-log `id` (R412). -/
def State.overflowEnd (ts : Stamp) (id : LogId) (s : State) : State :=
  { s.overflowed ts id with busy := false, pend := .idle }

/-- A command's `note` at a full sub-log ends the command (R412). -/
theorem endCmd_note_of_full {s : State} {ts : Stamp} {id : LogId} (r : Result) (v : BitVec 64) (hs : s.ctrl ≠ .faulted)
    (hfull : s.LogFull ts id) : endCmd r v (note ts s) = s.overflowEnd ts id := by
  rw [note_eq_overflowed hs hfull]
  exact endCmd_of_faulted rfl

/-- A write whose state within the command is `u` with BUSY set ends in LOG_OVERFLOW from `u`, where `u`'s log is full. -/
theorem writeThenNote_of_full {write : State → State} {s u : State} {id : LogId} (hw : write s.performing = u.performing)
    (hu : u.ctrl ≠ .faulted) (hfull : u.LogFull u.tsc id) :
    writeThenNote write s.performing = u.overflowEnd u.tsc id := by
  rw [writeThenNote, hw, unlessFaulted_of_not (s := u.performing) hu]
  exact endCmd_note_of_full (s := u.performing) .ok 0 hu hfull

/-- WRREG BORDER writes the three low bits (R373). -/
theorem writeReg_border (v : BitVec 8) (s : State) : writeReg .border v s = { s with border := v.setWidth 3 } := by
  have hbits : v.extractLsb' 0 3 = v.setWidth 3 := (BitVec.setWidth_eq_extractLsb' (by decide)).symm
  rw [writeReg, hbits]

theorem exec_wrreg_border {s : State} (v : BitVec 8) (hr : s.Ready) (hf : s.InFrame) :
    exec (.wrreg 0x10 v) s = .next (writeThenNote (writeReg .border v) s.performing) :=
  exec_wrreg_inFrame v (r := .border) hr hf (by simp [writableRegOf])

theorem exec_wrreg_paging {s : State} (v : BitVec 8) (hr : s.Ready) (hf : s.InFrame) (hp : s.cfg.variant = .paged) :
    exec (.wrreg 0x12 v) s = .next (writeThenNote (writePaging v true) s.performing) :=
  exec_wrreg_inFrame v (r := .paging) hr hf (by simp [writableRegOf, hp])

theorem exec_mapRomBank_inFrame {s : State} (slot bank : BitVec 8) (hr : s.Ready) (hf : s.InFrame) :
    exec (.mapRomBank slot bank) s
      = .next (writeThenNote (remap slot.toNat ⟨.rom, .fixed, bank.toNat⟩) s.performing) :=
  hostCommand_inFrame (c := .mapRomBank slot bank) hr hf (writeThenNote_pend _ _)

theorem exec_mapRamBank_inFrame {s : State} (slot bank : BitVec 8) (hr : s.Ready) (hf : s.InFrame) :
    exec (.mapRamBank slot bank) s
      = .next (writeThenNote (remap slot.toNat ⟨.ram, .fixed, bank.toNat⟩) s.performing) :=
  hostCommand_inFrame (c := .mapRamBank slot bank) hr hf (writeThenNote_pend _ _)

/-- `remap` of a target in range, within a command (R241). -/
theorem remap_performing {s : State} {i : Nat} {t : Target} {e : Slot} (hi : i < s.cfg.slotCount)
    (hok : targetOk s.cfg t = true) (hfit : targetFits t = true) (he : targetSlot s.cfg t = e) :
    remap i t s.performing = State.performing { s with slots := s.slots.set i e } := by
  rw [remap_of_ok (s := s.performing) hi hok hfit, ← he]
  rfl

/-- The soft registers after the CPU's reset (R53). -/
theorem resetRegs_soft (s : State) (rest : List CpuEvent) :
    resetRegs false (s.cpuWasReset false rest) = s.softCleared.cpuWasReset false rest := by
  have hmode : ∀ m : BitVec 8, BitVec.ofBool (m.getLsbD 7) ++ (0 : BitVec 7) = m &&& 0x80 := by decide
  show softReset _ = _
  simp only [softReset, poolSel, hmode]
  rfl

/-- The hard registers and the table after the CPU's reset (R52, R54, R200). -/
theorem resetRegs_hard {s : State} (hv : s.cfg.valid = true) (hslots : s.slots.length = s.cfg.slotCount)
    (rest : List CpuEvent) : resetRegs true (s.cpuWasReset true rest) = s.hardCleared.cpuWasReset true rest := by
  have hctrl : (hardReset (s.cpuWasReset true rest)).ctrl ≠ .faulted := by simp [State.cpuWasReset]
  calc resetRegs true (s.cpuWasReset true rest)
    _ = { hardReset (s.cpuWasReset true rest) with slots := homeTable s.cfg 0 } :=
      remapHome_eq (s := hardReset (s.cpuWasReset true rest)) hv hctrl hslots
    _ = s.hardCleared.cpuWasReset true rest := by
      rw [homeTable_eq hv]
      rfl

/-- RESET whose registers leave `t` ends in LOG_OVERFLOW once the devices were told, where `t`'s log is full (R200). -/
theorem exec_reset_of_full {s t : State} {hard : Bool} {r : CpuReply} {rest : List CpuEvent}
    {replies : List (Byte × Bool)} {drest : List DevEvent} {id : LogId} (hr : s.Ready) (hf : s.InFrame)
    (hcpu : s.cpuIn = .ret r :: rest) (hlen : replies.length = s.dev.length)
    (hdev : s.devIn = deviceReturns replies ++ drest)
    (hw : resetRegs hard (s.cpuWasReset hard rest) = t.cpuWasReset hard rest) (hd : t.dev = s.dev) (hi : t.devIn = s.devIn)
    (hfull : (t.resetTold hard rest drest).LogFull t.tsc id) :
    exec (.reset hard) s = .next ((t.resetTold hard rest drest).overflowEnd t.tsc id) := by
  have hctrl : (t.cpuWasReset hard rest).ctrl ≠ .faulted := by simp [State.cpuWasReset]
  rw [exec_reset_inFrame hr hf hcpu hlen hdev hw hctrl hd hi]
  exact congrArg _ (endCmd_note_of_full (s := (t.cpuWasReset hard rest).told (.onReset t.tsc) 0 _ drest) .ok 0 hctrl hfull)

/-- A chipset write that maps within a bus cycle is the registers' turns and one `note` (R345). -/
theorem chipsetWrite_of_fits {s : State} {v : Byte} {p : Addr} (ts : Stamp) (hs : s.ctrl ≠ .faulted)
    (hv : s.cfg.valid = true) (hfit : s.PortBanksFit p v) :
    chipsetWrite p v ts (s.atBus ts) = note ts ((s.portWritten p v).atBus ts) := by
  have hctrl : ((s.portWritten p v).atBus ts).ctrl ≠ .faulted := by rwa [atBus_ctrl, portWritten_ctrl]
  rw [chipsetWrite_eq, chipsetTurns_of_fits (s := s.atBus ts) hv hs hfit, portWritten_atBus, unlessFaulted_of_not hctrl]

/-- A chipset write whose `note` meets a full sub-log is answered with zeros (R353, R412). -/
theorem answerWrite_of_full {s : State} {v : Byte} {p : Addr} {ts : Stamp} {id : LogId} (hs : s.ctrl ≠ .faulted)
    (hv : s.cfg.valid = true) (hfit : s.PortBanksFit p v) (hfull : (s.portWritten p v).LogFull ts id) (w : BitVec 32) :
    answerWrite w (chipsetWrite p v ts (s.atBus ts)) =
      { (s.portWritten p v).overflowed ts id with lastBusTs := ts, busUsed := true, busReply := ⟨0, false, 0⟩ } := by
  have hctrl : ((s.portWritten p v).atBus ts).ctrl ≠ .faulted := by rwa [atBus_ctrl, portWritten_ctrl]
  rw [chipsetWrite_of_fits ts hs hv hfit, note_eq_overflowed (s := (s.portWritten p v).atBus ts) hctrl hfull]
  exact if_pos rfl

/-- Settles O41: every write is followed by the one `note` that meets the full sub-log. -/
theorem logOverflow : Obligations.LogOverflow := by
  intro s id
  refine ⟨fun ts hs hfull => note_eq_overflowed hs hfull, fun v p ts hs ht hv hp hfit hfull => ?port,
    fun v hr hf hv hfull => ?border, fun v hp hr hf hv hfull => ?paging,
    fun v hs => ⟨fun hfit hr hf hv hfull => ?mode, fun hfit hr hf hv hfull => ?hsr⟩,
    fun pool mask hs hfit hr hf hv hfull => ?mapPaged,
    fun slot bank hslot => ⟨fun hbank hr hf hv hfull => ?rom, fun hbank hr hf hv hfull => ?ram⟩,
    fun r rest replies drest hslots hcpu hlen hdev => ⟨fun hr hf hv hfull => ?soft, fun hr hf hv hfull => ?hard⟩⟩
  case port => rw [exec_ioWrite_chipset hs ht hp, funext (answerWrite_of_full hs.1 hv hfit hfull)]
  case border =>
    rw [exec_wrreg_border v hr hf]
    exact congrArg _ (writeThenNote_of_full (u := { s with border := v.setWidth 3 }) (writeReg_border v _) hr.2 hfull)
  case paging =>
    have hw : writePaging v true s.performing = (s.latched v).performing :=
      writePaging_eq_latched (s := s.performing) hv hp hr.2 (Bool.and_false _)
    rw [exec_wrreg_paging v hr hf hp]
    exact congrArg _ (writeThenNote_of_full hw hr.2 hfull)
  case mode =>
    have hw : writeMode v s.performing = (s.modeWritten v).performing :=
      writeMode_of_fits (s := s.performing) hv hs hfit
    rw [exec_wrreg_mode v hr hf hs]
    exact congrArg _ (writeThenNote_of_full hw hr.2 hfull)
  case hsr =>
    have hw : writeHsr v s.performing = (s.hsrWritten v).performing :=
      writeHsr_of_fits (s := s.performing) hv hs hfit
    rw [exec_wrreg_hsr v hr hf hs]
    exact congrArg _ (writeThenNote_of_full hw hr.2 hfull)
  case mapPaged =>
    have hw : mapPagedWrite pool mask s.performing = (s.pagedMapped pool mask).performing :=
      mapPagedWrite_of_fits (s := s.performing) hv hs hfit
    rw [exec_mapPaged_inFrame pool mask hr hf hs]
    exact congrArg _ (writeThenNote_of_full hw hr.2 hfull)
  case rom =>
    have hw := remap_performing (s := s) hslot (decide_eq_true hbank) (targetFits_byte ..) (targetSlot_fixedRom ..)
    rw [exec_mapRomBank_inFrame slot bank hr hf]
    exact congrArg _ (writeThenNote_of_full hw hr.2 hfull)
  case ram =>
    have hw := remap_performing (s := s) hslot (decide_eq_true hbank) (targetFits_byte ..) (targetSlot_fixedRam ..)
    rw [exec_mapRamBank_inFrame slot bank hr hf]
    exact congrArg _ (writeThenNote_of_full hw hr.2 hfull)
  case soft => exact exec_reset_of_full hr hf hcpu hlen hdev (resetRegs_soft s rest) rfl rfl hfull
  case hard => exact exec_reset_of_full hr hf hcpu hlen hdev (resetRegs_hard hv hslots rest) rfl rfl hfull

end Sys2Proof.Machine

namespace Sys2Proof.Machine

/-! IO_WRITE to a port the chipset does not decode: the first claimant, or no device (R333, R335, R353). -/

/-- In a step or an NMI entry IO_WRITE is charged its wait, then writes the port (R353). -/
theorem exec_ioWrite {s : State} {p : Addr} {ts : Stamp} (v : Byte) (hs : s.Serving) (ht : s.StampOk ts) :
    ∃ c, s.pend = .cpu c ∧
      exec (.ioWrite v p ts) s = .next (waited ts (ioDelay s p ts) s fun w => portWrite c p v ts w (s.atBus ts)) := by
  obtain ⟨c, hp, hc⟩ := busCycle_serving (fun c s => withWait (ioWait p ts s) (portWrite c p v ts) s) hs ht
  have hwait : ioWait p ts (s.atBus ts) = waitOf (ioDelay s p ts) := ioWait_eq p ts (s.atBus ts)
  refine ⟨c, hp, ?_⟩
  simp only [exec, execIoWrite, onBus_serving _ hs, serveIoWrite, hc, hwait, withWait_atBus hs.1]

section
variable {s : State} {p : Addr} (c : CpuCall) (v : Byte) (ts : Stamp) (w : BitVec 32)
  (h : chipsetPort s.cfg.variant p = false)
include h

/-- A write no device claims is dropped (R335). -/
theorem portWrite_dropped (hno : NoClaim s p .write) : portWrite c p v ts w s = busAnswer w false 0 s := by
  simp [portWrite, chipsetTakesWrite_eq, h, claimant_of_noClaim hno]

/-- The first claimant, and no other device, is called (R335). -/
theorem portWrite_device {k : Nat} {x : Device} (hx : FirstClaim s p .write k x) :
    portWrite c p v ts w s = settleIoAll (askIo c .write w k x.agent.id (.write p v ts) s) := by
  simp [portWrite, chipsetTakesWrite_eq, h, claimant_of_firstClaim hx]

end

/-- A device that returns at once from `write` ends the cycle, whatever byte it gives (R331, R353). -/
theorem settleIoAll_write {s : State} {c : CpuCall} (w : BitVec 32) (hs : s.ctrl ≠ .faulted) (hp : s.pend = .cpu c)
    {d : Byte} {claim : Bool} {rest : List DevEvent} (hq : s.devIn = .ret d claim :: rest) (k id : Nat) (op : DevOp) :
    settleIoAll (askIo c .write w k id op s)
      = busAnswer w false 0 { s with calls := .dev k id op :: s.calls, devIn := rest } := by
  have hanswer : settleIoAll (askIo c .write w k id op s)
      = busAnswer w false 0 { askIo c .write w k id op s with devIn := rest, pend := .cpu c } :=
    (settleIoAll_ret (s := askIo c .write w k id op s) rfl hq).trans (if_neg hs)
  rw [hanswer, ← hp]
  rfl

/-- Settles O58: the wait, then the first claimant or nobody. -/
theorem ioWriteDevice : Obligations.IoWriteDevice := by
  intro s v p ts hs ht hport
  obtain ⟨c, hp, hexec⟩ := exec_ioWrite (p := p) v hs ht
  have written : ∀ {done : BitVec 32 → State}, (∀ w, portWrite c p v ts w (s.atBus ts) = done w) →
      exec (.ioWrite v p ts) s = .next (waited ts (ioDelay s p ts) s done) := fun h => by rw [hexec, funext h]
  refine ⟨fun hno => written fun w => ?dropped, fun k x d claim rest hx hq => written fun w => ?device⟩
  case dropped => exact portWrite_dropped (s := s.atBus ts) c v ts w hport hno
  case device =>
    rw [portWrite_device (s := s.atBus ts) c v ts w hport hx, settleIoAll_write w (s := s.atBus ts) hs.1 hp hq]
    rfl

end Sys2Proof.Machine

namespace Sys2Proof.Machine

/-! The registry commands: their rules case by case (R341 to R344). -/

/-- A legal command that has no frame boundary before it is its rule, performed with BUSY set (R191). -/
theorem hostCommand_ready {s : State} (f : State → State) (hr : s.Ready) : hostCommand true f s = .next (f s.performing) :=
  congrArg _ (accept_ready hr)

theorem exec_attach {s : State} {tag : BitVec 16} (p : BitVec 8) (hr : s.Ready) (ht : tag ≠ 0) :
    exec (.attach p tag) s = .next (attachRule p tag s.performing) := by
  have hlegal : (tag != 0) = true := bne_iff_ne.2 ht
  rw [← hostCommand_ready _ hr, ← hlegal]
  rfl

theorem exec_detach {s : State} (tag : BitVec 16) (hr : s.Ready) :
    exec (.detach tag) s = .next (detachRule tag s.performing) := hostCommand_ready _ hr

theorem exec_find {s : State} (tag : BitVec 16) (hr : s.Ready) :
    exec (.find tag) s = .next (findRule tag s.performing) := hostCommand_ready _ hr

/-- `result(r)` outside FAULTED is the reply (R27, R191). -/
theorem finish_eq_replied {r : Result} {v : BitVec 64} {s : State} (h : s.ctrl ≠ .faulted) :
    finish r v s = s.replied r v := by
  rw [← endCmd_of_not h, endCmd_eq_replied h]

/-! The tag looked for (R343, R344). -/

theorem findTag_of_none {tag : BitVec 16} {l : List Device} (h : ∀ x ∈ l, x.tag ≠ tag) (n : Nat) :
    findTag tag n l = none := by
  induction l generalizing n with
  | nil => rfl
  | cons x xs ih =>
    rw [findTag, if_neg (h x List.mem_cons_self)]
    exact ih (fun y hy => h y (List.mem_cons_of_mem x hy)) (n + 1)

theorem findTag_of_first {tag : BitVec 16} {l : List Device} {k : Nat} {d : Device} (hd : l[k]? = some d) (htag : d.tag = tag)
    (hfirst : ∀ j x, j < k → l[j]? = some x → x.tag ≠ tag) (n : Nat) : findTag tag n l = some (n + k) := by
  induction l generalizing n k with
  | nil => cases hd
  | cons y ys ih =>
    cases k with
    | zero =>
      obtain rfl := Option.some.inj hd
      exact if_pos htag
    | succ k =>
      rw [findTag, if_neg (hfirst 0 y k.succ_pos rfl), ← Nat.add_assoc, Nat.add_right_comm]
      exact ih hd (fun j x hj hx => hfirst (j + 1) x (Nat.succ_lt_succ hj) hx) (n + 1)

/-- Settles O45: the search from index 0. -/
theorem findFirstOfTag : Obligations.FindFirstOfTag := by
  intro s tag hr
  rw [exec_find tag hr]
  refine ⟨fun hno => ?absent, fun k d hd htag hfirst => ?found⟩
  case absent =>
    rw [findRule, findTag_of_none (l := s.performing.dev) hno]
    exact congrArg _ (finish_eq_replied (s := s.performing) hr.2)
  case found =>
    rw [findRule, findTag_of_first (l := s.performing.dev) hd htag hfirst, Nat.zero_add]
    exact congrArg _ (finish_eq_replied (s := s.performing) hr.2)

/-! The end of a sub-chain (R336, R341, R342). -/

/-- The devices deeper than `d` after the one at `p` reach up to `e`, where a device no deeper stands or the list ends. -/
structure SubchainEndsAt (dev : List Device) (p d e : Nat) : Prop where
  after : p < e
  inside : e ≤ dev.length
  deeper : ∀ j x, p < j → j < e → dev[j]? = some x → d < x.depth.toNat
  stops : ∀ x, dev[e]? = some x → x.depth.toNat ≤ d

theorem SubchainEndsAt.le {dev : List Device} {p d e e' : Nat} (h : SubchainEndsAt dev p d e) (h' : SubchainEndsAt dev p d e') :
    e ≤ e' := by
  refine Nat.le_of_not_lt fun hlt => ?_
  have hx : dev[e']? = some (dev[e']'(hlt.trans_le h.inside)) := List.getElem?_eq_getElem _
  exact Nat.not_lt.2 (h'.stops _ hx) (h.deeper e' _ h'.after hlt hx)

/-- The model's end of a sub-chain is one (R341, R342). -/
theorem subchainEndsAt_chainEnd {dev : List Device} {p : Nat} (d : Nat) (hp : p < dev.length) :
    SubchainEndsAt dev p d (chainEnd dev p d) := by
  obtain ⟨hafter, hinside, hdeeper, hstops⟩ := chainEnd_spec d hp
  exact ⟨hafter, hinside, hdeeper, hstops⟩

/-- A sub-chain has one end, which the model finds (R341, R342). -/
theorem SubchainEndsAt.chainEnd_eq {dev : List Device} {p d e : Nat} (h : SubchainEndsAt dev p d e) :
    chainEnd dev p d = e := by
  have hfound := subchainEndsAt_chainEnd d (h.after.trans_le h.inside)
  exact Nat.le_antisymm (hfound.le h) (h.le hfound)

/-! ATTACH (R341). -/

section
variable {s : State} (tag : BitVec 16)

theorem attachRule_full (p : BitVec 8) (h : s.dev.length = s.cfg.devMax) :
    attachRule p tag s = endCmd .ok 0 (raise .config s) := if_pos h

variable (hroom : s.dev.length ≠ s.cfg.devMax)
include hroom

theorem attachRule_top : attachRule 0xFF tag s =
    finish .ok (val64 s.dev.length) (insertDev s.dev.length ⟨tag, 0, payloadAgent s.payload⟩ s) := by
  rw [attachRule, if_neg hroom, if_pos rfl]

variable {p : BitVec 8} (hp : p ≠ 0xFF)
include hp

theorem attachRule_noParent (h : s.dev[p.toNat]? = none) : attachRule p tag s = endCmd .ok 0 (raise .config s) := by
  rw [attachRule, if_neg hroom, if_neg hp, h]

theorem attachRule_under {d : Device} {k : Nat} (hd : s.dev[p.toNat]? = some d)
    (hk : SubchainEndsAt s.dev p.toNat d.depth.toNat k) : attachRule p tag s =
      finish .ok (val64 k) (insertDev k ⟨tag, d.depth + 1, payloadAgent s.payload⟩ s) := by
  rw [attachRule, if_neg hroom, if_neg hp, hd]
  simp only [hk.chainEnd_eq]

end

/-- Settles O42: at the end, or where the parent's sub-chain ends. -/
theorem attachInserts : Obligations.AttachInserts := by
  intro s tag a hr htag ha hlt
  have hagent : payloadAgent s.performing.payload = a := congrArg payloadAgent ha
  rw [exec_attach _ hr htag, attachRule_top tag (s := s.performing) hlt.ne, hagent]
  refine ⟨?top, fun p d k hp hd hpk hk hdeeper hstops => ?under⟩
  case top =>
    have hend : s.dev.take s.dev.length ++ ⟨tag, 0, a⟩ :: s.dev.drop s.dev.length = s.dev ++ [⟨tag, 0, a⟩] := by
      rw [List.take_length, List.drop_length]
    rw [finish_eq_replied (s := insertDev _ _ s.performing) hr.2, ← hend]
    rfl
  case under =>
    rw [exec_attach p hr htag, attachRule_under tag (s := s.performing) hlt.ne hp hd ⟨hpk, hk, hdeeper, hstops⟩, hagent]
    exact congrArg _ (finish_eq_replied (s := insertDev _ _ s.performing) hr.2)

/-- Settles O43: a full registry and a missing parent end in the same `raise`. -/
theorem attachConfig : Obligations.AttachConfig := by
  intro s p tag hr htag hbad
  have hrule : attachRule p tag s.performing = endCmd .ok 0 (raise .config s.performing) := by
    by_cases hfull : s.dev.length = s.cfg.devMax
    · exact attachRule_full tag p hfull
    · obtain ⟨hp, hlen⟩ := hbad.resolve_left hfull
      exact attachRule_noParent tag (s := s.performing) hfull hp (List.getElem?_eq_none hlen)
  rw [exec_attach p hr htag, hrule, endCmd_raise (s := s.performing) hr.2]
  rfl

/-! DETACH (R342). -/

theorem detachRule_of_absent {s : State} {tag : BitVec 16} (h : ∀ x ∈ s.dev, x.tag ≠ tag) :
    detachRule tag s = finish .notFound 0 s := by
  rw [detachRule, findTag_of_none h]

theorem detachRule_of_first {s : State} {tag : BitVec 16} {k e : Nat} {d : Device} (hd : s.dev[k]? = some d)
    (htag : d.tag = tag) (hfirst : ∀ j x, j < k → s.dev[j]? = some x → x.tag ≠ tag)
    (he : SubchainEndsAt s.dev k d.depth.toNat e) :
    detachRule tag s = finish .ok (val64 (e - k)) { s with dev := s.dev.take k ++ s.dev.drop e } := by
  rw [detachRule, findTag_of_first hd htag hfirst, Nat.zero_add]
  simp only [hd, Option.map_some, Option.getD_some, he.chainEnd_eq]

/-- Settles O44: from the first device of the tag up to where its sub-chain ends. -/
theorem detachRemovesSubchain : Obligations.DetachRemovesSubchain := by
  intro s tag hr
  rw [exec_detach tag hr]
  refine ⟨fun hno => ?absent, fun k e d hd htag hfirst hke he hdeeper hstops => ?found⟩
  case absent =>
    rw [detachRule_of_absent (s := s.performing) hno]
    exact congrArg _ (finish_eq_replied (s := s.performing) hr.2)
  case found =>
    rw [detachRule_of_first (s := s.performing) hd htag hfirst ⟨hke, he, hdeeper, hstops⟩]
    exact congrArg _ (finish_eq_replied (s := { s.performing with dev := s.dev.take k ++ s.dev.drop e }) hr.2)

end Sys2Proof.Machine

namespace Sys2Proof.Machine

/-! WRREG BORDER and WRREG PAGING (R251, R372 to R374). -/

/-- Settles O35: the one field written, then `note`. -/
theorem wrregBorder : Obligations.WrregBorder := by
  intro s v hr hf hroom
  have hw : writeReg .border v s.performing = State.performing { s with border := v.setWidth 3 } := writeReg_border v _
  rw [exec_wrreg_border v hr hf, writeThenNote_busy hw hr.2 hroom]

/-- Settles O36: the forced write of the latch, then `note`. -/
theorem wrregPaging : Obligations.WrregPaging := by
  intro s v hr hf hv hp hroom
  have hw : writePaging v true s.performing = (s.latched v).performing :=
    writePaging_eq_latched (s := s.performing) hv hp hr.2 (Bool.and_false _)
  rw [exec_wrreg_paging v hr hf hp, writeThenNote_busy hw hr.2 hroom]
  rfl

/-! Register numbers that WRREG does not write, and MAP_PAGED off SCLD (R114, R377). -/

/-- The numbers WRREG writes, by variant (R120, R372). -/
theorem writableRegOf_isSome (v : Variant) (reg : BitVec 8) : (writableRegOf v reg).isSome = true ↔
    reg = 0x10 ∨ (reg = 0x12 ∧ v = .paged) ∨ ((reg = 0x13 ∨ reg = 0x14) ∧ v = .scld) := by
  revert reg
  cases v <;> decide

/-- A command that is not legal is refused where it could be performed, at frame-over too (R114, R191). -/
theorem hostCommand_illegal {s : State} (f : State → State) (hr : s.Ready) :
    hostCommand false f s = .next s.refusedReply := by
  simp only [hostCommand, accept, hr.1, hr.2, if_false, Bool.false_eq_true]
  rfl

/-- Settles O38: neither is legal in this state, so `accept` refuses both. -/
theorem illegalNames : Obligations.IllegalNames := by
  intro s hr
  refine ⟨fun reg v hreg => ?wrreg, fun pool mask hs => ?mapPaged⟩
  case wrreg =>
    have hlegal : (writableRegOf s.cfg.variant reg).isSome = false :=
      Bool.eq_false_iff.2 fun h => hreg ((writableRegOf_isSome _ _).1 h)
    simp only [exec, execWrreg, hlegal]
    exact hostCommand_illegal _ hr
  case mapPaged =>
    simp only [exec, execMapPaged, decide_eq_false hs]
    exact hostCommand_illegal _ hr

end Sys2Proof.Machine

namespace Sys2Proof.Machine

/-! The checks of RESTORE, in the model's words and in the statements' (R380). -/

/-- A byte within a blob is its number of one byte. -/
theorem numberAt_one {b : List Byte} {i : Nat} (hi : i < b.length) : numberAt b i 1 = (blobByte b i).toNat :=
  numberAt_byte (by rw [List.getElem?_eq_getElem hi, blobByte, List.getD_eq_getElem _ _ hi])

/-- The bytes of a number are all 0 where the number is. -/
theorem leNat_eq_zero (l : List Byte) : leNat l = 0 ↔ ∀ x ∈ l, x = 0 := by
  induction l with
  | nil => simp [leNat]
  | cons x xs ih =>
    rw [List.forall_mem_cons, ← ih, leNat, ← BitVec.toNat_inj]
    simp

theorem leNat_lt (l : List Byte) : leNat l < 256 ^ l.length := by
  induction l with
  | nil => simp [leNat]
  | cons x xs ih => rw [leNat, List.length_cons, Nat.pow_succ]; have := x.isLt; omega

theorem numberAt_lt (b : List Byte) (i n : Nat) : numberAt b i n < 256 ^ n :=
  (leNat_lt _).trans_le (Nat.pow_le_pow_right (by decide) (List.length_take_le ..))

/-- The padding is the three bytes that follow the registers (R136). -/
theorem numberAt_pad {b : List Byte} (h : 24 ≤ b.length) :
    numberAt b 21 3 = 0 ↔ blobByte b 21 = 0 ∧ blobByte b 22 = 0 ∧ blobByte b 23 = 0 := by
  have htake : (b.drop 21).take 3 = [blobByte b 21, blobByte b 22, blobByte b 23] := by
    refine List.ext_getElem (by simp; omega) fun i h1 h2 => ?_
    have h2 : i < 3 := h2
    have hi : 21 + i < b.length := by omega
    rw [List.getElem_take, List.getElem_drop]
    interval_cases i <;> simp [blobByte, hi]
  rw [numberAt, htake, leNat_eq_zero]
  simp

/-- The fields of a saved word, as numbers (R126). -/
theorem slotWord_fields (n : Nat) :
    ((BitVec.ofNat 16 n).extractLsb' 0 8).toNat = n % 0x100 ∧
      ((BitVec.ofNat 16 n).extractLsb' 8 2).toNat = n / 0x100 % 4 ∧
      ((BitVec.ofNat 16 n).extractLsb' 10 3).toNat = n / 0x400 % 8 ∧
      ((BitVec.ofNat 16 n).extractLsb' 13 2).toNat = n / 0x2000 % 4 := by
  simp only [BitVec.extractLsb'_toNat, BitVec.toNat_ofNat, Nat.shiftRight_eq_div_pow]
  omega

/-- The checks of a saved entry are those of its number: KIND's four numbers that are not reserved name a pool each (R380). -/
theorem slotWordOk_iff (c : Cfg) (n : Nat) : slotWordOk c (BitVec.ofNat 16 n) = true ↔ SavedEntryOk c n := by
  obtain ⟨hbank, hzero, hkind, -⟩ := slotWord_fields n
  have hbits : (BitVec.ofNat 16 n).extractLsb' 8 2 = 0 ↔ n / 0x100 % 4 = 0 := by
    rw [← BitVec.toNat_inj, hzero]
    rfl
  have hlt : n / 0x400 % 8 < 8 := Nat.mod_lt _ (by decide)
  simp only [slotWordOk, SavedEntryOk, Bool.and_eq_true, beq_iff_eq, hbits, kindOf, hkind, hbank]
  refine and_congr_right fun _ => ?_
  generalize n / 0x400 % 8 = k at hlt
  -- `b < 1` is the pool of UNPOPULATED, and stays as it is
  interval_cases k <;> simp [-Order.lt_one_iff, -Nat.lt_one_iff] <;> intros <;> rfl

theorem variantTag_toNat (v : Variant) : (variantTag v).toNat = (match v with | .base => 0 | .paged => 1 | .scld => 2) := by
  cases v <;> rfl

/-! The offsets of the snapshot's last parts (R136). -/

theorem ramAt_eq (c : Cfg) : ramAt c = 28 + 2 * c.slotCount := by rw [ramAt, ramLenAt]; omega

theorem dockLenAt_eq (c : Cfg) : dockLenAt c = 28 + 2 * c.slotCount + c.ramBanks * c.slotSize := by
  rw [dockLenAt, ramAt_eq, ramBytes]

theorem cpuLenAt_eq (c : Cfg) : cpuLenAt c = 32 + 2 * c.slotCount + c.ramBanks * c.slotSize := by
  rw [cpuLenAt, dockLenAt_eq]; omega

theorem cpuAt_eq (c : Cfg) : cpuAt c = 36 + 2 * c.slotCount + c.ramBanks * c.slotSize := by
  rw [cpuAt, cpuLenAt_eq]; omega

/-- The model's checks are those of the statements (R380). -/
theorem snapshotOk_iff (c : Cfg) (b : List Byte) : snapshotOk c b = true ↔ BlobFits c b := by
  by_cases hlen : 24 + 2 * c.slotCount + 12 ≤ b.length
  · have hbyte : ∀ i, i < 24 → numberAt b i 1 = (blobByte b i).toNat := fun i hi => numberAt_one (by omega)
    have hword : ∀ i, slotWordOk c (blobSlotWord b i) = true ↔ SavedEntryOk c (numberAt b (24 + 2 * i) 2) :=
      fun i => slotWordOk_iff c _
    have hnumber : blobNat b = numberAt b := rfl
    simp only [snapshotOk, BlobFits, hlen, Bool.and_eq_true, Bool.or_eq_true, decide_eq_true_eq, beq_iff_eq,
      List.all_eq_true, List.mem_range, hword, hnumber, numberAt_pad (b := b) (by omega), hbyte, ← BitVec.toNat_inj,
      BitVec.ofNat_eq_ofNat, BitVec.toNat_ofNat, Nat.reducePow, Nat.reduceMod, Nat.reduceLT, variantTag_toNat, ramLenAt,
      dockLenAt_eq, cpuLenAt_eq, cpuAt_eq, ramBytes]
    tauto
  · simp [snapshotOk, BlobFits, hlen]

end Sys2Proof.Machine

namespace Sys2Proof.Machine

/-! RESTORE up to the CPU's check (R380). -/

theorem exec_restore {s : State} {b : List Byte} (hr : s.Ready) (hb : s.payload = .blob b) :
    exec .restore s = .next (settleAll (if snapshotOk s.cfg b then
      callCpu .check (.cpuCheck (cpuBlob s.cfg b)) s.performing else endCmd .restoreMismatch 0 s.performing)) := by
  have hblob : payloadBlob s.payload = b := congrArg payloadBlob hb
  rw [← hblob]
  exact hostCommand_ready (fun s => settleAll (restoreRule s)) hr

/-- RESTORE once the CPU answered its check, with `rest` left to be said (R380). -/
def State.cpuChecked (b : List Byte) (rest : List CpuEvent) (s : State) : State :=
  { s with busy := true, calls := .cpuCheck (cpuBlob s.cfg b) :: s.calls, pend := .cpu .check, cpuIn := rest }

/-- RESTORE of a blob that passes the block's checks goes on from the CPU's answer (R17, R380). -/
theorem exec_restore_of_fits {s : State} {b : List Byte} {r : CpuReply} {rest : List CpuEvent} (hr : s.Ready)
    (hb : s.payload = .blob b) (hfits : BlobFits s.cfg b) (hcpu : s.cpuIn = .ret r :: rest) :
    exec .restore s = .next (settle (rest.length + s.devIn.length) (checkReturn r.accepted (s.cpuChecked b rest))) := by
  have hret : cpuEvent .check (.ret r) (s.cpuChecked b rest) = checkReturn r.accepted (s.cpuChecked b rest) := if_neg hr.2
  rw [exec_restore hr hb, if_pos ((snapshotOk_iff _ _).2 hfits), ← hret]
  exact congrArg _ (settleAll_cpu (s := s.cpuChecked b s.cpuIn) rfl hcpu)

/-- Settles O48: the block refuses by itself, or the CPU does. -/
theorem restoreMismatch : Obligations.RestoreMismatch := by
  intro s b hr hb
  refine ⟨fun hfits => ?block, fun r rest hfits hcpu hacc => ?cpu⟩
  case block =>
    rw [exec_restore hr hb, if_neg (mt (snapshotOk_iff _ _).1 hfits), settleAll_idle (endCmd_pend _ _ _),
      endCmd_eq_replied (s := s.performing) hr.2]
    rfl
  case cpu =>
    have hrefused : checkReturn r.accepted (s.cpuChecked b rest) = endCmd .restoreMismatch 0 (s.cpuChecked b rest) := by
      rw [checkReturn, hacc, if_neg Bool.false_ne_true]
    rw [exec_restore_of_fits hr hb hfits hcpu, hrefused, settle_idle (endCmd_pend _ _ _),
      endCmd_eq_replied (s := s.cpuChecked b rest) hr.2, ← cpuAt_eq]
    rfl

/-! RESTORE of an accepted blob (R381, R382). -/

/-- RESTORE once the CPU took its part of the blob, with `rest` left to be said (R381). -/
def State.cpuRestored (b : List Byte) (rest : List CpuEvent) (s : State) : State :=
  { s.cpuChecked b rest with
    calls := .cpuRestore (cpuBlob s.cfg b) :: .cpuCheck (cpuBlob s.cfg b) :: s.calls, pend := .cpu .restore }

theorem exec_restore_of_accepted {s : State} {b : List Byte} {r1 r2 : CpuReply} {rest : List CpuEvent} (hr : s.Ready)
    (hb : s.payload = .blob b) (hfits : BlobFits s.cfg b) (hcpu : s.cpuIn = .ret r1 :: .ret r2 :: rest)
    (hacc : r1.accepted = true) :
    exec .restore s = .next (State.replied .ok 0 (logRestart (loadSnapshot b (s.cpuRestored b rest)))) := by
  have hblob : payloadBlob (s.cpuRestored b rest).payload = b := congrArg payloadBlob hb
  have hcall : checkReturn r1.accepted (s.cpuChecked b (.ret r2 :: rest)) = s.cpuRestored b (.ret r2 :: rest) := by
    rw [checkReturn, hacc, if_pos rfl, ← hblob]
    rfl
  have happly : cpuEvent .restore (.ret r2) (s.cpuRestored b rest)
      = State.replied .ok 0 (logRestart (loadSnapshot b (s.cpuRestored b rest))) := by
    have hret : cpuEvent .restore (.ret r2) (s.cpuRestored b rest) = applyRestore (s.cpuRestored b rest) := if_neg hr.2
    rw [hret, applyRestore, hblob]
    exact finish_eq_replied (s := logRestart (loadSnapshot b (s.cpuRestored b rest))) hr.2
  have hheard : settle ((CpuEvent.ret r2 :: rest).length + s.devIn.length) (s.cpuRestored b (.ret r2 :: rest))
      = settle (rest.length + s.devIn.length) (cpuEvent .restore (.ret r2) (s.cpuRestored b rest)) := by
    rw [List.length_cons, Nat.add_right_comm]
    exact settle_cpu (s := s.cpuRestored b (.ret r2 :: rest)) rfl rfl _
  rw [exec_restore_of_fits hr hb hfits hcpu, hcall, hheard, happly, settle_idle rfl]

/-! What the state loaded from an accepted blob holds (R381). -/

/-- The low bits of a number that they hold are the number. -/
theorem extractLow_toNat {v : Byte} {n k : Nat} (h : v.toNat ≤ k) (hk : k < 2 ^ n) : (v.extractLsb' 0 n).toNat = v.toNat := by
  rw [BitVec.extractLsb'_toNat, Nat.shiftRight_zero, Nat.mod_eq_of_lt (by omega)]

/-- Below the reserved numbers a KIND's number is that of the KIND it names (R42, R126). -/
theorem kindCode_kindOf : ∀ w : BitVec 3, w.toNat ≤ 3 → kindCode ((kindOf w).getD .unpopulated) = w := by decide

theorem srcCode_srcOf : ∀ w : BitVec 2, srcCode (srcOf w) = w := by decide

/-- The entry loaded for an accepted saved entry is that entry, but for CONT (R126, R381). -/
theorem entryNumber_slotOfWord {c : Cfg} {n : Nat} (h : SavedEntryOk c n) :
    entryNumber (slotOfWord c (BitVec.ofNat 16 n)) % 0x8000 = n % 0x8000 := by
  obtain ⟨hbank, -, hkind, hsrc⟩ := slotWord_fields n
  obtain ⟨hzero, hle, -, -⟩ := h
  rw [← slotWord_toNat]
  simp only [slotWord, slotOfWord, kindCode_kindOf _ (hkind.trans_le hle), srcCode_srcOf, append_toNat, hbank, hkind, hsrc,
    BitVec.ofNat_eq_ofNat, BitVec.toNat_ofNat, Nat.zero_mod]
  omega

/-- The RAM loaded is the blob's (R136, R381). -/
theorem ramByte_loadSnapshot {s : State} {b : List Byte} (hb : BlobFits s.cfg b) {a : Nat}
    (ha : a < s.cfg.ramBanks * s.cfg.slotSize) :
    some (ramByte (loadSnapshot b s) a) = b[28 + 2 * s.cfg.slotCount + a]? := by
  have hlen : 28 + 2 * s.cfg.slotCount + a < b.length := by
    obtain ⟨-, -, -, -, -, -, -, -, -, -, -, -, -, -, -, hend⟩ := hb
    omega
  have hget : ramGet (loadSnapshot b s).ram a = b[28 + 2 * s.cfg.slotCount + a]? := by
    rw [← ramAt_eq, ← List.getElem?_drop, ← List.getElem?_take_of_lt ha]
    exact ramGet_ramOfBytes _ a
  rw [ramByte, hget, List.getElem?_eq_getElem hlen, Option.getD_some]

theorem slotEntry_loadSnapshot (s : State) (b : List Byte) {i : Nat} (hi : i < s.cfg.slotCount) :
    slotEntry (loadSnapshot b s).slots i = slotOfWord s.cfg (BitVec.ofNat 16 (numberAt b (24 + 2 * i) 2)) :=
  slotEntry_map_range _ hi

/-- Settles O47: the state loaded is the blob's, field by field, and the log restarts from it. -/
theorem restoreLoadsBlob : Obligations.RestoreLoadsBlob := by
  intro s b r1 r2 rest hr hb hfits hcpu hacc
  obtain ⟨hlen, -, -, -, -, -, -, hborder, hearmic, hpaging, -, -, hslots, -, -, -⟩ := id hfits
  have byte : ∀ i, i < 24 → (blobByte b i).toNat = numberAt b i 1 := fun i hi => (numberAt_one (by omega)).symm
  have low : ∀ {i n k : Nat}, i < 24 → numberAt b i 1 ≤ k → k < 2 ^ n →
      ((blobByte b i).extractLsb' 0 n).toNat = numberAt b i 1 := fun hi hle hk => by
    rw [← byte _ hi] at hle ⊢
    exact extractLow_toNat hle hk
  refine ⟨loadSnapshot b s, ?exec, rfl, rfl, ramOfBytes_wf _, ?tsc, ?frames, low (by decide) hborder (by decide),
    low (by decide) hearmic (by decide), low (by decide) hpaging (by decide), byte 19 (by decide), byte 20 (by decide),
    ?length, fun i hi => ?slot, fun a => ramByte_loadSnapshot hfits⟩
  case exec =>
    rw [exec_restore_of_accepted hr hb hfits hcpu hacc, ← cpuAt_eq]
    rfl
  case tsc => exact Nat.mod_eq_of_lt (numberAt_lt b 4 4)
  case frames => exact Nat.mod_eq_of_lt (numberAt_lt b 8 8)
  case length => simp [loadSnapshot]
  case slot =>
    rw [slotEntry_loadSnapshot s b hi]
    exact ⟨entryNumber_slotOfWord (hslots i hi), rfl⟩

/-! A SAVE blob restored (R378 to R382). -/

/-- The fields of an entry's number (R126). -/
theorem entryNumber_fields (e : Slot) : entryNumber e % 0x100 = e.bank.toNat ∧ entryNumber e / 0x100 % 4 = 0 ∧
    entryNumber e / 0x400 % 8 = (kindCode e.kind).toNat ∧ entryNumber e / 0x2000 % 4 = (srcCode e.src).toNat := by
  have hbank := e.bank.isLt
  have hkind := (kindCode e.kind).isLt
  have hsrc := (srcCode e.src).isLt
  rw [← slotWord_toNat]
  simp only [slotWord, append_toNat, BitVec.ofNat_eq_ofNat, BitVec.toNat_ofNat, Nat.zero_mod]
  omega

/-- An entry in range is accepted when it was saved (R126, R380). -/
theorem SlotOk.savedEntryOk {c : Cfg} {e : Slot} (h : SlotOk c e) : SavedEntryOk c (entryNumber e) := by
  obtain ⟨-, hpool, hdock⟩ := h
  obtain ⟨hbank, hzero, hkind, -⟩ := entryNumber_fields e
  have dock : ∀ k, (kindCode k).toNat = 2 → k = .dock := by
    intro k
    cases k <;> decide
  rw [SavedEntryOk, hzero, hkind, hbank]
  cases hk : e.kind <;> rw [hk] at hpool <;> exact ⟨rfl, by decide, hpool, fun h => hdock (hk.trans (dock _ h))⟩

/-- An entry is its number but for CONT, and CONT is the contended predicate (R44, R126). -/
theorem slot_eq_of_number {v : Variant} {e e' : Slot} (hn : entryNumber e % 0x8000 = entryNumber e' % 0x8000)
    (hcont : e.cont = contended v e.kind e.bank.toNat) (hcont' : e'.cont = contended v e'.kind e'.bank.toNat) : e = e' := by
  obtain ⟨hbank, -, hkind, hsrc⟩ := entryNumber_fields e
  obtain ⟨hbank', -, hkind', hsrc'⟩ := entryNumber_fields e'
  have kinds : ∀ k k', kindCode k = kindCode k' → k = k' := by
    intro k k'
    cases k <;> cases k' <;> decide
  have srcs : ∀ k k', srcCode k = srcCode k' → k = k' := by
    intro k k'
    cases k <;> cases k' <;> decide
  have hk : e.kind = e'.kind := kinds _ _ (BitVec.eq_of_toNat_eq (by omega))
  have hs : e.src = e'.src := srcs _ _ (BitVec.eq_of_toNat_eq (by omega))
  have hb : e.bank = e'.bank := BitVec.eq_of_toNat_eq (by omega)
  have hc : e.cont = e'.cont := by rw [hcont, hcont', hk, hb]
  cases e
  cases e'
  cases hk
  cases hs
  cases hb
  cases hc
  rfl

theorem slots_ext {l l' : List Slot} (hlen : l.length = l'.length)
    (h : ∀ i, i < l.length → slotEntry l i = slotEntry l' i) : l = l' := by
  rw [← map_slotEntry l, ← map_slotEntry l', ← hlen]
  exact List.map_congr_left fun i hi => h i (List.mem_range.1 hi)

/-- The fresh log is that of the registers and the table (R291, R298). -/
theorem freshLogs_congr {s t : State} (hcfg : t.cfg = s.cfg) (hborder : t.border = s.border) (hpaging : t.paging = s.paging)
    (hmode : t.mode = s.mode) (hslots : t.slots = s.slots) : freshLogs t = freshLogs s := by
  simp only [freshLogs, eff, effValue, srcMask, hcfg, hborder, hpaging, hmode, hslots]

/-- The blob `b` holds the numbers of `s` and the bytes `cpu` of the CPU, by the layout of R136; what the variant lacks is 0 in
`s` too (R35 to R37). -/
structure SavedBlob (s : State) (cpu b : List Byte) : Prop where
  magic : numberAt b 0 1 = 1
  variant : numberAt b 1 1 = (match s.cfg.variant with | .base => 0 | .paged => 1 | .scld => 2)
  slotCount : numberAt b 2 1 = s.cfg.slotCount
  zero : numberAt b 3 1 = 0
  tsc : numberAt b 4 4 = s.tsc.toNat
  frames : numberAt b 8 8 = s.frames.toNat
  border : numberAt b 16 1 = s.border.toNat
  earmic : numberAt b 17 1 = s.earmic.toNat
  paging : numberAt b 18 1 = s.paging.toNat
  mode : numberAt b 19 1 = s.mode.toNat
  hsr : numberAt b 20 1 = s.hsr.toNat
  pad : numberAt b 21 3 = 0
  slots : ∀ i, i < s.cfg.slotCount → numberAt b (24 + 2 * i) 2 = entryNumber (slotEntry s.slots i)
  ramLen : numberAt b (24 + 2 * s.cfg.slotCount) 4 = s.cfg.ramBanks * s.cfg.slotSize
  ram : ∀ a, a < s.cfg.ramBanks * s.cfg.slotSize → b[28 + 2 * s.cfg.slotCount + a]? = some (ramByte s a)
  dockLen : numberAt b (28 + 2 * s.cfg.slotCount + s.cfg.ramBanks * s.cfg.slotSize) 4 = 0
  cpuLen : numberAt b (32 + 2 * s.cfg.slotCount + s.cfg.ramBanks * s.cfg.slotSize) 4 = cpu.length
  length : b.length = 36 + 2 * s.cfg.slotCount + s.cfg.ramBanks * s.cfg.slotSize + cpu.length
  cpu : b.drop (36 + 2 * s.cfg.slotCount + s.cfg.ramBanks * s.cfg.slotSize) = cpu

/-- A register the variant has is saved as it is, and one it lacks is 0 (R136). -/
theorem ite_toNat_of_lacks {n : Nat} {p : Prop} [Decidable p] {x : BitVec n} (h : ¬ p → x = 0) :
    (if p then x.toNat else 0) = x.toNat := by
  split
  · rfl
  · next hp => rw [h hp]; rfl

/-- What SAVE replies is such a blob (R378). -/
theorem Inv.savedBlob {s t : State} (h : Inv s) (hr : s.Ready) {r : CpuReply} {rest : List CpuEvent}
    (hcpu : s.cpuIn = .ret r :: rest) (hlen : r.blob.length < 2 ^ 32) (hsave : Machine.exec .save s = .next t) :
    SavedBlob s r.blob t.blob := by
  obtain ⟨hpaged, hscld⟩ := h.variant
  obtain ⟨b, hexec, hlength, hmagic, hvariant, hcount, hzero, htsc, hframes, hborder, hearmic, hpaging, hmode, hhsr, hpad,
    hslots, hramLen, hram, hdockLen, hcpuLen, hdrop⟩ := (saveBlobLayout s r rest hr h.cfg hcpu).2 hlen
  obtain rfl : t = _ := Host.Outcome.next.inj (hsave.symm.trans hexec)
  have at32 : 28 + 2 * s.cfg.slotCount + s.cfg.ramBanks * s.cfg.slotSize + 4
      = 32 + 2 * s.cfg.slotCount + s.cfg.ramBanks * s.cfg.slotSize := by omega
  have at36 : 28 + 2 * s.cfg.slotCount + s.cfg.ramBanks * s.cfg.slotSize + 8
      = 36 + 2 * s.cfg.slotCount + s.cfg.ramBanks * s.cfg.slotSize := by omega
  rw [at32] at hcpuLen
  rw [at36] at hlength hdrop
  exact ⟨hmagic, hvariant, hcount, hzero, htsc, hframes, hborder, hearmic, hpaging.trans (ite_toNat_of_lacks hpaged),
    hmode.trans (ite_toNat_of_lacks fun hs => (hscld hs).1), hhsr.trans (ite_toNat_of_lacks fun hs => (hscld hs).2), hpad,
    hslots, hramLen, hram, hdockLen, hcpuLen, hlength, hdrop⟩

/-- A blob saved from a state with the invariant passes RESTORE's checks (R380). -/
theorem SavedBlob.fits {s : State} {cpu b : List Byte} (h : SavedBlob s cpu b) (hs : Inv s) : BlobFits s.cfg b := by
  obtain ⟨hpaged, hscld⟩ := hs.variant
  have hlength := h.length
  refine ⟨by omega, h.magic, h.zero, h.pad, h.variant, h.slotCount, ?tsc, ?border, ?earmic, ?paging, fun hv => ?noPaging,
    fun hv => ?noScld, fun i hi => ?slot, h.ramLen, h.dockLen, ?length⟩
  case tsc => rw [h.tsc]; exact hs.clock.1
  case border => rw [h.border]; exact Nat.le_of_lt_succ s.border.isLt
  case earmic => rw [h.earmic]; exact Nat.le_of_lt_succ s.earmic.isLt
  case paging => rw [h.paging]; exact Nat.le_of_lt_succ s.paging.isLt
  case noPaging => rw [h.paging, hpaged hv]; rfl
  case noScld =>
    rw [h.mode, h.hsr, (hscld hv).1, (hscld hv).2]
    exact ⟨rfl, rfl⟩
  case slot => rw [h.slots i hi]; exact (hs.slots.entry hi).savedEntryOk
  case length => rw [h.cpuLen]; exact hlength

/-- Settles O49: RESTORE loads the numbers that SAVE stored, and the entries are theirs but for CONT. -/
theorem saveRestore : Obligations.SaveRestore := by
  intro s t u r r1 r2 rest rest' hs hr hcpu hlen hsave hru hcfg hpay hcpu' hacc
  have hb : SavedBlob s r.blob t.blob := hs.savedBlob hr hcpu hlen hsave
  obtain ⟨w, hexec, hwcfg, hgen, -, htsc, hframes, hborder, hearmic, hpaging, hmode, hhsr, hcount, hslots, hram⟩ :=
    restoreLoadsBlob u t.blob r1 r2 rest' hru hpay (hcfg ▸ hb.fits hs) hcpu' hacc
  rw [hcfg] at hcount hslots hram hwcfg
  have hborder : w.border = s.border := BitVec.eq_of_toNat_eq (hborder.trans hb.border)
  have hpaging : w.paging = s.paging := BitVec.eq_of_toNat_eq (hpaging.trans hb.paging)
  have hmode : w.mode = s.mode := BitVec.eq_of_toNat_eq (hmode.trans hb.mode)
  have hslots : w.slots = s.slots := by
    refine slots_ext (hcount.trans hs.slots.1.symm) fun i hi => ?_
    rw [hcount] at hi
    obtain ⟨hnumber, hcont⟩ := hslots i hi
    exact slot_eq_of_number (hnumber.trans (congrArg (· % 0x8000) (hb.slots i hi))) hcont (hs.slots.entry hi).1
  refine ⟨_, hexec, BitVec.eq_of_toNat_eq (htsc.trans hb.tsc), BitVec.eq_of_toNat_eq (hframes.trans hb.frames), hborder,
    BitVec.eq_of_toNat_eq (hearmic.trans hb.earmic), hpaging, hmode, BitVec.eq_of_toNat_eq (hhsr.trans hb.hsr), hslots,
    fun a ha => ?ram, freshLogs_congr hwcfg hborder hpaging hmode hslots, rfl, rfl, ?calls⟩
  case ram =>
    have hbyte : ramByte w a = ramByte s a := Option.some.inj ((hram a ha).trans (hb.ram a ha))
    rw [← hbyte, ramByte, ramByte, hgen]
    rfl
  case calls =>
    rw [hcfg, hb.cpu]
    rfl

end Sys2Proof.Machine

namespace Sys2Proof.Machine

/-! The record SWAP_VARIANT accepts (R132, R383). -/

theorem variantOfTag_eq_some (tag : BitVec 8) (v : Variant) :
    variantOfTag tag = some v ↔ tag = (match v with | .base => 0 | .paged => 1 | .scld => 2) := by
  revert tag
  cases v <;> decide

theorem exec_swapVariant {s : State} (tag : BitVec 8) (hr : s.Ready) :
    exec (.swapVariant tag) s = .next (swapRule tag s.performing) := hostCommand_ready _ hr

/-- Any other record ends the command with CONFIG (R383). -/
theorem exec_swapVariant_of_not_accepted {s : State} {tag : BitVec 8} {c : Cfg} (hr : s.Ready) (hp : s.payload = .cfg c)
    (hbad : variantOfTag tag ≠ some c.variant ∨ c.valid = false) :
    exec (.swapVariant tag) s = .next (s.stopped .config) := by
  have htarget : swapTarget tag s.performing.payload = none := by
    have hpay : s.performing.payload = .cfg c := hp
    rw [swapTarget, hpay]
    obtain h | h := hbad <;> simp [payloadCfg, Option.filter, h]
  rw [exec_swapVariant tag hr, swapRule, htarget]
  exact congrArg _ (endCmd_raise (s := s.performing) hr.2 _ _)

theorem exec_swapVariant_of_accepted {s : State} {tag : BitVec 8} {c : Cfg} (hr : s.Ready) (hp : s.payload = .cfg c)
    (htag : variantOfTag tag = some c.variant) (hv : c.valid = true) :
    exec (.swapVariant tag) s = .next (State.replied .ok 0 (logRestart (swapped c s))) := by
  have htarget : swapTarget tag s.performing.payload = some c := by
    have hpay : s.performing.payload = .cfg c := hp
    rw [swapTarget, hpay]
    simp [payloadCfg, Option.filter, htag, hv]
  have hctrl : (logRestart (swapped c s.performing)).ctrl ≠ .faulted := by
    rw [logRestart_ctrl]
    show (State.powerOn c).ctrl ≠ .faulted
    rw [powerOn_ctrl hv]
    nofun
  rw [exec_swapVariant tag hr, swapRule, htarget]
  exact congrArg _ (finish_eq_replied hctrl)

/-! The registers, the table and the log after a swap (R298, R383, R385). -/

theorem eff_swapped_border (c : Cfg) (s : State) : eff (swapped c s) .border = s.border.setWidth 16 := by
  unfold eff
  cases hv : (swapped c s).cfg.variant <;> rfl

theorem freshLogs_swapped (c : Cfg) (s : State) : freshLogs (swapped c s) =
    ⟨⟨s.border.setWidth 16, s.border.setWidth 16, []⟩, ⟨0, 0, []⟩, ⟨0, 0, []⟩, ⟨0, 0, []⟩⟩ := by
  have hmode : eff (swapped c s) .mode = 0 := eff_powerOn c .mode
  have hshadow : eff (swapped c s) .shadow = 0 := eff_powerOn c .shadow
  have hsource : eff (swapped c s) .source = 0 := eff_powerOn c .source
  rw [freshLogs, eff_swapped_border, hmode, hshadow, hsource]

/-- The swap ends in its power-on state, whose frame is in progress, with the log restarted (R27, R383). -/
theorem replied_swapped {c : Cfg} (hv : c.valid = true) (s : State) :
    State.replied .ok 0 (logRestart (swapped c s)) =
      { swapped c s with logs := freshLogs (swapped c s), calls := .clearRenderingCache :: s.calls } := by
  have hctrl : (if c.n ≤ (0 : Stamp).toNat then CtrlState.atFrameBoundary else .running) = (State.powerOn c).ctrl := by
    rw [powerOn_ctrl hv]
    exact if_neg (Nat.not_le.2 (valid_parts hv).1)
  have hreplied : State.replied .ok 0 (logRestart (swapped c s)) =
      { swapped c s with
        ctrl := if c.n ≤ (0 : Stamp).toNat then CtrlState.atFrameBoundary else .running
        logs := freshLogs (swapped c s)
        calls := .clearRenderingCache :: s.calls } := rfl
  rw [hreplied, hctrl]
  rfl

/-! The RAM after a swap (R384). -/

/-- The slots cover the logical addresses (R10). -/
theorem valid_addresses {c : Cfg} (hv : c.valid = true) : c.slotCount * c.slotSize = 65536 := by
  obtain ⟨-, hs, -⟩ := valid_parts hv
  unfold Cfg.slotsFixed at hs
  cases hk : c.variant <;> simp only [hk, Bool.and_eq_true, decide_eq_true_eq] at hs <;> rw [hs.1, hs.2]

theorem slotEntry_homeTable {c : Cfg} (hv : c.valid = true) (paging : BitVec 6) {i : Nat} (hi : i < c.slotCount) :
    slotEntry (homeTable c paging) i = homeEntry c paging i := by
  rw [homeTable_eq hv, slotEntry_map_range _ hi]

/-- The slot of the home table at power-on that holds a RAM bank, if one does (R242 to R244). -/
def homeRamSlot (v : Variant) (bank : Nat) : Nat :=
  match v with
  | .base => bank + 1
  | .paged => if bank = 5 then 1 else if bank = 2 then 2 else 3
  | .scld => bank + 2

/-- A RAM bank is in one slot of the home table at most. -/
theorem eq_homeRamSlot {c : Cfg} (hv : c.valid = true) {i : Nat} (hi : i < c.slotCount) (hk : (homeEntry c 0 i).kind = .ram) :
    i = homeRamSlot c.variant (homeEntry c 0 i).bank.toNat := by
  cases hvar : c.variant with
  | base =>
    rw [(valid_base hv hvar).1] at hi
    simp only [homeEntry, hvar] at hk ⊢
    split at hk
    · cases hk
    · split at hk
      · next h0 hram =>
        rw [if_neg h0, if_pos hram, homeRamSlot, BitVec.toNat_ofNat]
        omega
      · cases hk
  | paged =>
    rw [(valid_paged hv hvar).1] at hi
    simp only [homeEntry, hvar] at hk ⊢
    interval_cases i
    · cases hk
    · decide
    · decide
    · decide
  | scld =>
    rw [(valid_scld hv hvar).1] at hi
    simp only [homeEntry, hvar] at hk ⊢
    split at hk
    · cases hk
    · next h2 =>
      rw [if_neg h2, homeRamSlot, BitVec.toNat_ofNat]
      omega

/-- Where the byte behind the logical address `a` stands in the RAM of a power-on state (R71, R384). -/
def powerOnTarget (c : Cfg) (a : Nat) : Nat :=
  (slotEntry (homeTable c 0) (a / c.slotSize)).bank.toNat * c.slotSize + a % c.slotSize

/-- The logical address `a` is mapped to RAM before a swap and after it (R384). -/
def RamBeforeAndAfter (s : State) (c : Cfg) (a : Nat) : Prop :=
  a < 65536 ∧ (slotEntry s.slots (a / s.cfg.slotSize)).kind = .ram ∧
    (slotEntry (homeTable c 0) (a / c.slotSize)).kind = .ram

section
variable {c : Cfg} (hv : c.valid = true)
include hv

theorem slot_lt_of_address {a : Nat} (ha : a < 65536) : a / c.slotSize < c.slotCount := by
  rw [← valid_addresses hv] at ha
  exact (Nat.div_lt_iff_lt_mul (valid_slotSize_pos hv)).2 ha

/-- The bank and the offset of a byte behind a logical address. -/
theorem powerOnTarget_div_mod (a : Nat) :
    powerOnTarget c a / c.slotSize = (slotEntry (homeTable c 0) (a / c.slotSize)).bank.toNat ∧
      powerOnTarget c a % c.slotSize = a % c.slotSize := by
  have hpos := valid_slotSize_pos hv
  have hlt := Nat.mod_lt a hpos
  refine ⟨?_, ?_⟩
  · rw [powerOnTarget, Nat.add_comm, Nat.add_mul_div_right _ _ hpos, Nat.div_eq_of_lt hlt, Nat.zero_add]
  · rw [powerOnTarget, Nat.add_comm, Nat.add_mul_mod_self_right, Nat.mod_mod]

/-- Two logical addresses in RAM after a swap stand for two bytes. -/
theorem powerOnTarget_inj {a a' : Nat} (ha : a < 65536) (ha' : a' < 65536)
    (hk : (slotEntry (homeTable c 0) (a / c.slotSize)).kind = .ram)
    (hk' : (slotEntry (homeTable c 0) (a' / c.slotSize)).kind = .ram) (h : powerOnTarget c a = powerOnTarget c a') :
    a = a' := by
  obtain ⟨hbank, hoff⟩ := powerOnTarget_div_mod hv a
  obtain ⟨hbank', hoff'⟩ := powerOnTarget_div_mod hv a'
  rw [h] at hbank hoff
  have hslot := slot_lt_of_address hv ha
  have hslot' := slot_lt_of_address hv ha'
  rw [slotEntry_homeTable hv 0 hslot] at hk hbank
  rw [slotEntry_homeTable hv 0 hslot'] at hk' hbank'
  have hdiv : a / c.slotSize = a' / c.slotSize := by
    rw [eq_homeRamSlot hv hslot hk, eq_homeRamSlot hv hslot' hk', ← hbank, ← hbank']
  calc a
    _ = c.slotSize * (a / c.slotSize) + a % c.slotSize := (Nat.div_add_mod ..).symm
    _ = c.slotSize * (a' / c.slotSize) + a' % c.slotSize := by rw [hdiv, ← hoff, ← hoff']
    _ = a' := Nat.div_add_mod ..

/-- A byte that the loop of R384 copies is copied from an address in RAM before and after. -/
theorem rechunkSource_some {s : State} {t a : Nat} (h : rechunkSource s.cfg c s.slots (homeTable c 0) t = some a) :
    RamBeforeAndAfter s c a ∧ powerOnTarget c a = t := by
  have hcond := List.find?_some h
  simp only [Bool.and_eq_true, decide_eq_true_eq] at hcond
  obtain ⟨⟨hold, hnew⟩, hbank⟩ := hcond
  obtain ⟨i, hi, hia⟩ := List.mem_map.1 (List.mem_of_find?_eq_some h)
  rw [List.mem_reverse, List.mem_range] at hi
  have hlt := Nat.mod_lt t (valid_slotSize_pos hv)
  have ha : a < 65536 :=
    calc a
      _ = i * c.slotSize + t % c.slotSize := hia.symm
      _ < i * c.slotSize + c.slotSize := Nat.add_lt_add_left hlt _
      _ = (i + 1) * c.slotSize := (Nat.succ_mul ..).symm
      _ ≤ c.slotCount * c.slotSize := Nat.mul_le_mul_right _ hi
      _ = 65536 := valid_addresses hv
  have hoff : a % c.slotSize = t % c.slotSize := by
    rw [← hia, Nat.add_comm, Nat.add_mul_mod_self_right, Nat.mod_mod]
  refine ⟨⟨ha, hold, hnew⟩, ?_⟩
  rw [powerOnTarget, hbank, hoff]
  exact Nat.div_add_mod' ..

/-- Every address in RAM before and after is the one its byte is copied from (R384). -/
theorem rechunkSource_target {s : State} {a : Nat} (h : RamBeforeAndAfter s c a) :
    rechunkSource s.cfg c s.slots (homeTable c 0) (powerOnTarget c a) = some a := by
  obtain ⟨ha, hold, hnew⟩ := h
  obtain ⟨hbank, hoff⟩ := powerOnTarget_div_mod hv a
  have hfound : (rechunkSource s.cfg c s.slots (homeTable c 0) (powerOnTarget c a)).isSome = true := by
    refine List.find?_isSome.2 ⟨a, List.mem_map.2 ⟨a / c.slotSize, ?_, ?_⟩, ?_⟩
    · rw [List.mem_reverse, List.mem_range]
      exact slot_lt_of_address hv ha
    · rw [hoff]
      exact Nat.div_add_mod' ..
    · simp only [hold, hnew, hbank, decide_true, Bool.and_self]
  obtain ⟨a', ha'⟩ := Option.isSome_iff_exists.1 hfound
  obtain ⟨⟨hlt, -, hnew'⟩, htarget⟩ := rechunkSource_some hv ha'
  rw [ha', powerOnTarget_inj hv hlt ha hnew' hnew htarget]

theorem powerOnTarget_lt {a : Nat} (hk : (slotEntry (homeTable c 0) (a / c.slotSize)).kind = .ram) :
    powerOnTarget c a < ramBytes c := by
  have hbank := (powerOn_slotsInv hv).ramEntry hk
  calc powerOnTarget c a
    _ < (slotEntry (homeTable c 0) (a / c.slotSize)).bank.toNat * c.slotSize + c.slotSize :=
      Nat.add_lt_add_left (Nat.mod_lt _ (valid_slotSize_pos hv)) _
    _ = ((slotEntry (homeTable c 0) (a / c.slotSize)).bank.toNat + 1) * c.slotSize := (Nat.succ_mul ..).symm
    _ ≤ ramBytes c := Nat.mul_le_mul_right _ hbank

/-- The bytes copied (R384). -/
theorem ramByte_swapped_of_copied {s : State} {a : Nat} (h : RamBeforeAndAfter s c a) :
    ramByte (swapped c s) (powerOnTarget c a) = ramByte s (oldRamAddr s a) := by
  have hget : ramGet (rechunk s c) (powerOnTarget c a) = some (ramByte s (oldRamAddr s a)) := by
    obtain ⟨-, -, hnew⟩ := id h
    rw [rechunk, ramGet_ramOfFn, if_pos (powerOnTarget_lt hv hnew), rechunkSource_target hv h, Option.map_some]
  have hram : (swapped c s).ram = rechunk s c := rfl
  rw [ramByte, hram, hget, Option.getD_some]

/-- Every other byte is of the swap's draw (R384). -/
theorem ramByte_swapped_of_drawn {s : State} {k : Nat} (h : ∀ a, RamBeforeAndAfter s c a → powerOnTarget c a ≠ k) :
    ramByte (swapped c s) k = Config.ramInit s.draws k := by
  have hsource : rechunkSource s.cfg c s.slots (homeTable c 0) k = none := by
    refine Option.eq_none_iff_forall_ne_some.2 fun a ha => ?_
    obtain ⟨hmapped, htarget⟩ := rechunkSource_some hv ha
    exact h a hmapped htarget
  have hget : ramGet (rechunk s c) k = none := by
    rw [rechunk, ramGet_ramOfFn, hsource, Option.map_none, ite_self]
  have hram : (swapped c s).ram = rechunk s c := rfl
  rw [ramByte, hram, hget]
  rfl

end

/-- Settles O50: the power-on state of the record, the log from BORDER, and each byte of the RAM copied or drawn. -/
theorem swapState : Obligations.SwapState := by
  intro s tag c hr hp
  refine ⟨fun ⟨htag, hv⟩ => ?accepted, fun hbad => ?refused⟩
  case accepted =>
    have hexec := exec_swapVariant_of_accepted hr hp ((variantOfTag_eq_some tag c.variant).2 htag) hv
    rw [replied_swapped hv, freshLogs_swapped] at hexec
    refine ⟨_, rechunk s c, hexec, rfl, fun a ha hold hnew => ?copied, fun k hk => ?drawn⟩
    case copied => exact ramByte_swapped_of_copied hv ⟨ha, hold, hnew⟩
    case drawn => exact ramByte_swapped_of_drawn hv fun a ⟨ha, hold, hnew⟩ => hk a ha hold hnew
  case refused =>
    exact exec_swapVariant_of_not_accepted hr hp (hbad.imp_left (mt (variantOfTag_eq_some tag c.variant).1))

/-- Settles O51: the bytes that SWAP_VARIANT copies. -/
theorem swapRam : Obligations.SwapRam := by
  intro s t tag c hr _ hp hv htag hexec a ha
  obtain ⟨u, ram, hu, -, hcopied, -⟩ := (swapState s tag c hr hp).1 ⟨htag, hv⟩
  obtain rfl : u = t := Host.Outcome.next.inj (hu.symm.trans hexec)
  exact hcopied a ha

end Sys2Proof.Machine

namespace Sys2Proof.Machine

/-! FAULT and FAULTED (R413, R420): `raise` alone sets a bit of FAULT, and no rule moves CTRL.STATE in FAULTED. A change
of anything else keeps `FaultInv` by itself, since it reads FAULT and CTRL.STATE only. -/

theorem FaultInv.fault_zero {s : State} (h : FaultInv s) (hs : s.ctrl ≠ .faulted) : s.fault = 0 := by
  obtain ⟨h0, -⟩ | ⟨hf, -⟩ := h
  · exact h0
  · exact absurd hf hs

/-- Outside FAULTED the control state may be any other. -/
theorem FaultInv.setCtrl {s : State} (h : FaultInv s) (hs : s.ctrl ≠ .faulted) {c : CtrlState} (hc : c ≠ .faulted) :
    FaultInv { s with ctrl := c } := .inl ⟨h.fault_zero hs, hc⟩

/-- What stops at a fault keeps the invariant if it does where none was raised (R412). -/
theorem FaultInv.stopOr {s t : State} (h : FaultInv s) (ht : s.ctrl ≠ .faulted → FaultInv t) :
    FaultInv (if s.ctrl = .faulted then stopCmd s else t) := by
  split
  · exact h
  · next hs => exact ht hs

theorem FaultInv.finish {s : State} (h : FaultInv s) (r : Result) (v : BitVec 64) : FaultInv (finish r v s) := by
  by_cases hs : s.ctrl = .faulted
  · have hctrl : (Machine.finish r v s).ctrl = s.ctrl := by rw [finish_ctrl, if_pos hs, hs]
    rwa [FaultInv, hctrl]
  · have hidle : idleCtrl s ≠ .faulted := by unfold idleCtrl; split <;> decide
    have hctrl : (Machine.finish r v s).ctrl = idleCtrl s := by rw [finish_ctrl, if_neg hs]
    exact .inl ⟨h.fault_zero hs, hctrl ▸ hidle⟩

theorem FaultInv.endCmd {s : State} (h : FaultInv s) (r : Result) (v : BitVec 64) : FaultInv (endCmd r v s) :=
  h.stopOr fun _ => h.finish r v

/-! The log, the bank table and the registers (R241, R248, R251, R292, R293, R345 to R350). -/

theorem FaultInv.noteOne {s : State} (h : FaultInv s) (ts : Stamp) (id : LogId) : FaultInv (noteOne ts id s) := by
  rw [noteOne_eq]
  split
  · obtain ⟨-, he⟩ | ⟨-, -, he⟩ | ⟨-, -, he⟩ := logAppend_cases id ts (eff s id) s
    · rw [he]; exact h.raise _
    · rw [he]; exact h.raise _
    · rw [he]; exact h
  · exact h

theorem FaultInv.note {s : State} (h : FaultInv s) (ts : Stamp) : FaultInv (note ts s) :=
  note_induct FaultInv ts s h fun id _ _ ht => ht.noteOne ts id

theorem FaultInv.remap {s : State} (h : FaultInv s) (i : Nat) (t : Target) : FaultInv (remap i t s) := by
  obtain ⟨-, -, -, he⟩ | ⟨-, -, -, he⟩ | ⟨-, he⟩ := remap_cases i t s
  · rw [he]; exact h
  · rw [he]; exact h.raise _
  · rw [he]; exact h.raise _

theorem FaultInv.remapHome {s : State} (h : FaultInv s) : FaultInv (remapHome s) :=
  remapHome_induct FaultInv s h fun i t _ hu => hu.remap i t

theorem FaultInv.changeMemPaged {s : State} (h : FaultInv s) (want : Nat → SlotSrc) :
    FaultInv (changeMemPaged want s) := by
  obtain ⟨-, -, he⟩ | ⟨-, -, he⟩ | ⟨-, he⟩ := changeMemPaged_cases want s
  · rw [he]; exact h
  · rw [he]; exact h.raise _
  · rw [he]; exact h.raise _

theorem FaultInv.scldWrite {s : State} (h : FaultInv s) (mode hsr : BitVec 8) :
    FaultInv (applyScld { s with mode := mode, hsr := hsr }) :=
  FaultInv.changeMemPaged (s := { s with mode := mode, hsr := hsr }) h _

theorem FaultInv.writePaging {s : State} (h : FaultInv s) (v : Byte) (forced : Bool) :
    FaultInv (writePaging v forced s) := by
  unfold Machine.writePaging
  split
  · exact h
  · exact remapLatch_induct FaultInv _ h fun i t _ hu => hu.remap i t

theorem FaultInv.writeReg {s : State} (h : FaultInv s) (r : WritableReg) (v : BitVec 8) : FaultInv (writeReg r v s) := by
  cases r with
  | border => exact h
  | paging => exact h.writePaging v true
  | mode => exact h.scldWrite v s.hsr
  | hsr => exact h.scldWrite s.mode v

theorem FaultInv.writeIfMatches {s : State} (h : FaultInv s) (p : Addr) (v : Byte) (r : ChipReg) :
    FaultInv (writeIfMatches p v r s) := by
  unfold Machine.writeIfMatches
  split
  · cases r with
    | ula => exact h
    | paging => exact h.writePaging v false
    | mode => exact h.scldWrite v s.hsr
    | hsr => exact h.scldWrite s.mode v
  · exact h

theorem FaultInv.chipsetWrite {s : State} (h : FaultInv s) (p : Addr) (v : Byte) (ts : Stamp) :
    FaultInv (chipsetWrite p v ts s) :=
  chipsetWrite_induct FaultInv p v ts s h (fun r _ ht => ht.writeIfMatches p v r) fun _ _ ht => ht.note ts

/-! The bus cycles (R194, R261 to R264, R352, R353). -/

theorem FaultInv.busFault {s : State} (h : FaultInv s) (b : FaultBit) : FaultInv (busFault b s) :=
  FaultInv.raise (s := { s with busReply := BusReply.zero }) h b

theorem FaultInv.withWait {s : State} (h : FaultInv s) (wait : Option (BitVec 32)) {f : BitVec 32 → State → State}
    (hf : ∀ w, FaultInv (f w s)) : FaultInv (withWait wait f s) := by
  obtain ⟨w, -, he⟩ | ⟨-, he⟩ := withWait_cases wait f s
  · rw [he]; exact hf w
  · rw [he]; exact h.busFault _

theorem FaultInv.answerMem {s : State} (h : FaultInv s) (wait : Option (BitVec 32)) (v : Byte) :
    FaultInv (answerMem wait v s) := h.withWait wait fun _ => h

theorem FaultInv.memRead {s : State} (h : FaultInv s) (a : Addr) : FaultInv (memRead a s).2 := by
  rw [memRead_frame]
  exact h

theorem FaultInv.memWrite {s : State} (h : FaultInv s) (a : Addr) (v : Byte) : FaultInv (memWrite a v s) := by
  rw [memWrite_frame]
  exact h

theorem FaultInv.ioEvent {s : State} (h : FaultInv s) (c : CpuCall) (d : Dir) (w : BitVec 32) (e : DevEvent) :
    FaultInv (ioEvent c d w e s) := by
  cases e with
  | command w' => exact h.raise _
  | ret data claim =>
    unfold Machine.ioEvent
    dsimp only
    split
    · exact h
    · cases d <;> exact h

theorem FaultInv.settleIoAll {s : State} (h : FaultInv s) : FaultInv (settleIoAll s) :=
  settleIo_keeps FaultInv (fun t c d w e es _ _ ht => FaultInv.ioEvent (s := { t with devIn := es }) ht c d w e) _ s h

theorem FaultInv.portRead {s : State} (h : FaultInv s) (c : CpuCall) (p : Addr) (ts : Stamp) (w : BitVec 32) :
    FaultInv (portRead c p ts w s) := by
  unfold Machine.portRead
  split
  · next r _ => cases r <;> exact h
  · split
    · next k x _ => exact FaultInv.settleIoAll (s := askIo c .read w k x.agent.id (.read p ts) s) h
    · exact h

theorem FaultInv.answerWrite {s : State} (h : FaultInv s) (w : BitVec 32) : FaultInv (answerWrite w s) := by
  unfold Machine.answerWrite
  split <;> exact h

theorem FaultInv.portWrite {s : State} (h : FaultInv s) (c : CpuCall) (p : Addr) (v : Byte) (ts : Stamp)
    (w : BitVec 32) : FaultInv (portWrite c p v ts w s) := by
  unfold Machine.portWrite
  split
  · exact (h.chipsetWrite p v ts).answerWrite w
  · split
    · next k x _ => exact FaultInv.settleIoAll (s := askIo c .write w k x.agent.id (.write p v ts) s) h
    · exact h

/-- A bus word keeps the invariant if the cycle it asks for does (R194, R412). -/
theorem FaultInv.busCycle {s : State} (h : FaultInv s) (ts : Stamp) {f : CpuCall → State → State}
    (hf : ∀ c t, FaultInv t → FaultInv (f c t)) : FaultInv (busCycle ts f s) := by
  obtain ⟨-, he⟩ | ⟨-, he⟩ | ⟨-, he⟩ | ⟨-, -, c, -, -, he⟩ := busCycle_cases ts f s
  · rw [he]; exact h
  · rw [he]; exact FaultInv.busFault (s := { s with busUsed := true }) h _
  · rw [he]; exact h.busFault _
  · rw [he]; exact hf c _ h

theorem FaultInv.serveBus {s : State} (h : FaultInv s) (i : Instr) : FaultInv (serveBus i s) := by
  cases i with
  | fetch a ts => exact h.busCycle ts fun _ _ ht => (ht.memRead a).answerMem _ _
  | memRead a ts => exact h.busCycle ts fun _ _ ht => (ht.memRead a).answerMem _ _
  | memWrite v a ts => exact h.busCycle ts fun _ _ ht => (ht.memWrite a v).answerMem _ _
  | ioRead p ts => exact h.busCycle ts fun c _ ht => ht.withWait _ fun w => ht.portRead c p ts w
  | ioWrite v p ts => exact h.busCycle ts fun c _ ht => ht.withWait _ fun w => ht.portWrite c p v ts w
  | contend a ts => exact h.busCycle ts fun _ _ ht => ht.answerMem _ _
  | intSample ts => exact h.busCycle ts fun _ _ ht => ht
  | intAck a ts => exact h.busCycle ts fun _ _ ht => ht
  | _ => exact h

/-! A command once `ensure()` is done, and the notifications (R196 to R202, R252 to R254, R337 to R340, R372). -/

theorem FaultInv.writeThenNote {write : State → State} {s : State} (h : FaultInv (write s)) :
    FaultInv (writeThenNote write s) := by
  unfold Machine.writeThenNote unlessFaulted
  split
  · exact h.endCmd _ _
  · exact (h.note _).endCmd _ _

theorem FaultInv.wrregAfter {s : State} (h : FaultInv s) (reg value : BitVec 8) : FaultInv (wrregAfter reg value s) := by
  unfold Machine.wrregAfter
  split
  · next r _ => exact (h.writeReg r value).writeThenNote
  · exact FaultInv.endCmd (s := { s with refused := true }) h _ _

theorem FaultInv.runFrameLoop {s : State} (h : FaultInv s) : FaultInv (runFrameLoop s) := by
  unfold Machine.runFrameLoop
  split
  · exact h
  · exact h.endCmd _ _

theorem FaultInv.startNmi {s : State} (h : FaultInv s) : FaultInv (startNmi s) := by
  unfold Machine.startNmi
  split <;> exact h

theorem FaultInv.afterEnsure {s : State} (h : FaultInv s) (hs : s.ctrl ≠ .faulted) (c : Cmd) :
    FaultInv (afterEnsure c s) := by
  cases c with
  | ensureFrame => exact h.endCmd _ _
  | runFrame => exact (h.setCtrl hs (c := .running) nofun).runFrameLoop
  | step dbg => exact h.setCtrl hs (c := .singleStepping) nofun
  | reset hard => exact h.setCtrl hs (c := .resetting) nofun
  | nmi => exact (h.setCtrl hs (c := .servicingNmi) nofun).startNmi
  | mapPaged pool mask => exact FaultInv.writeThenNote (write := mapPagedWrite pool mask) (h.scldWrite _ _)
  | mapRomBank slot bank => exact (h.remap _ _).writeThenNote
  | mapRamBank slot bank => exact (h.remap _ _).writeThenNote
  | wrreg reg value => exact h.wrregAfter reg value

theorem FaultInv.endReset {s : State} (h : FaultInv s) : FaultInv (endReset s) := (h.note _).endCmd _ _

theorem FaultInv.afterNotice {s : State} (h : FaultInv s) (hs : s.ctrl ≠ .faulted) (n : Notice) :
    FaultInv (afterNotice n s) := by
  cases n with
  | boundary c => exact FaultInv.afterEnsure (s := wrap s) h hs c
  | reset => exact h.endReset
  | nmi claimed => exact h

theorem FaultInv.tellDevices {s : State} (h : FaultInv s) (hs : s.ctrl ≠ .faulted) (n : Notice) :
    FaultInv (tellDevices n s) := by
  unfold Machine.tellDevices
  split
  · exact h.afterNotice hs n
  · exact h

theorem FaultInv.ensure {s : State} (h : FaultInv s) (hs : s.ctrl ≠ .faulted) (c : Cmd) : FaultInv (ensure c s) := by
  rw [ensure_eq]
  split
  · exact h.tellDevices hs _
  · exact h.afterEnsure hs c

/-! The agents' answers (R192 to R202, R338 to R340, R378 to R381). -/

theorem FaultInv.commitStep {s : State} (h : FaultInv s) (cycles : BitVec 32) : FaultInv (commitStep cycles s) := by
  obtain ⟨b, he⟩ | ⟨-, he⟩ := commitStep_cases cycles s
  · rw [he]; exact h.raise b
  · rw [he]; exact h

theorem FaultInv.stepReturn {s : State} (h : FaultInv s) (single : Bool) (r : CpuReply) :
    FaultInv (stepReturn single r s) := by
  have hcommit : FaultInv (if outcomeFaults r.outcome then Machine.raise .cpuFault s
      else Machine.commitStep r.cycles s) := by
    split
    · exact h.raise _
    · exact h.commitStep _
  refine hcommit.stopOr fun _ => ?_
  split
  · exact hcommit.endCmd _ _
  · exact hcommit.runFrameLoop

theorem FaultInv.nmiReturn {s : State} (h : FaultInv s) (claimed : Bool) (r : CpuReply) :
    FaultInv (nmiReturn claimed r s) := by
  have hs : FaultInv { s with nmiClaimed := claimed, nmiAccepted := r.accepted } := h
  refine hs.stopOr fun _ => FaultInv.endCmd ?_ _ _
  split
  · exact hs.raise _
  · split
    · exact hs.commitStep _
    · split
      · exact hs.raise _
      · exact hs

theorem FaultInv.resetAfterCpu {s : State} (h : FaultInv s) (hard : Bool) : FaultInv (resetAfterCpu hard s) := by
  have hregs : FaultInv (resetRegs hard s) := by
    cases hard with
    | true => exact FaultInv.remapHome (s := hardReset s) h
    | false => exact h
  rw [resetAfterCpu_eq]
  exact hregs.stopOr fun hs => hregs.tellDevices hs _

theorem FaultInv.saveReturn {s : State} (h : FaultInv s) (cpu : List Byte) : FaultInv (saveReturn cpu s) := by
  obtain ⟨-, he⟩ | ⟨-, he⟩ := saveReturn_cases cpu s
  · rw [he]; exact FaultInv.endCmd (s := { s with blob := snapshot s cpu }) h _ _
  · rw [he]; exact (h.raise _).endCmd _ _

theorem FaultInv.checkReturn {s : State} (h : FaultInv s) (accepted : Bool) : FaultInv (checkReturn accepted s) := by
  unfold Machine.checkReturn
  split
  · exact h
  · exact h.endCmd _ _

theorem FaultInv.applyRestore {s : State} (h : FaultInv s) : FaultInv (applyRestore s) :=
  FaultInv.finish (s := logRestart (loadSnapshot (payloadBlob s.payload) s)) h _ _

theorem FaultInv.cpuReturn {s : State} (h : FaultInv s) (c : CpuCall) (r : CpuReply) : FaultInv (cpuReturn c r s) := by
  cases c with
  | nmi claimed => exact h.nmiReturn claimed r
  | step single => exact h.stopOr fun _ => h.stepReturn single r
  | reset hard => exact h.stopOr fun _ => h.resetAfterCpu hard
  | save => exact h.stopOr fun _ => h.saveReturn r.blob
  | check => exact h.stopOr fun _ => h.checkReturn r.accepted
  | restore => exact h.stopOr fun _ => h.applyRestore

theorem FaultInv.cpuEvent {s : State} (h : FaultInv s) (c : CpuCall) (e : CpuEvent) : FaultInv (cpuEvent c e s) := by
  cases e with
  | command w => exact h.raise _
  | ret r => exact h.cpuReturn c r
  | bus w =>
    unfold Machine.cpuEvent
    dsimp only
    split
    · exact h.serveBus _
    · exact h.busFault _

theorem FaultInv.noticeEvent {s : State} (h : FaultInv s) (k : Nat) (n : Notice) (e : DevEvent) :
    FaultInv (noticeEvent k n e s) := by
  cases e with
  | command w => exact h.raise _
  | ret data claim =>
    refine h.stopOr fun hs => ?_
    split
    · exact h
    · exact h.afterNotice hs _

theorem FaultInv.micro {s t : State} (hm : micro s = some t) (h : FaultInv s) : FaultInv t := by
  obtain ⟨c, e, es, -, -, rfl⟩ | ⟨c, d, w, e, es, -, -, rfl⟩ | ⟨k, n, e, es, -, -, rfl⟩ := micro_cases hm
  · exact FaultInv.cpuEvent (s := { s with cpuIn := es }) h c e
  · exact FaultInv.ioEvent (s := { s with devIn := es }) h c d w e
  · exact FaultInv.noticeEvent (s := { s with devIn := es }) h k n e

theorem FaultInv.settleAll {s : State} (h : FaultInv s) : FaultInv (settleAll s) :=
  settleAll_keeps FaultInv (fun _ _ => FaultInv.micro) s h

/-! The host's commands (R191, R341 to R343, R371, R378 to R386). -/

/-- A command keeps the invariant if its rule does, which is performed outside FAULTED (R191). -/
theorem FaultInv.accept {s : State} (h : FaultInv s) (legal : Bool) {f : State → State}
    (hf : s.ctrl ≠ .faulted → FaultInv (f s.performing)) : FaultInv (accept legal f s) := by
  obtain ⟨-, he⟩ | ⟨-, -, he⟩ | ⟨-, -, he⟩ | ⟨hr, -, he⟩ := accept_cases legal f s
  · rw [he]; exact h.raise _
  · rw [he]; exact h
  · rw [he]; exact h
  · rw [he]; exact hf hr.2

theorem FaultInv.acceptRead {s : State} (h : FaultInv s) (legal : Bool) {f : State → State} (hf : FaultInv (f s)) :
    FaultInv (acceptRead legal f s) := by
  obtain ⟨-, he⟩ | ⟨-, -, he⟩ | ⟨-, -, he⟩ := acceptRead_cases legal f s
  · rw [he]; exact h.raise _
  · rw [he]; exact h
  · rw [he]; exact hf

theorem FaultInv.replyReg {s : State} (h : FaultInv s) (bits n : Nat) : FaultInv (replyReg bits n s) := by
  obtain ⟨-, he⟩ | ⟨-, he⟩ := replyReg_cases bits n s
  · rw [he]; exact h.finish _ _
  · rw [he]; exact h.raise .config

theorem FaultInv.execRdreg {s t : State} (h : FaultInv s) {reg : BitVec 8} {idx : BitVec 16}
    (he : execRdreg reg idx s = .next t) : FaultInv t := by
  unfold Machine.execRdreg at he
  split at he
  · cases he; exact h.acceptRead _ (h.replyReg _ _)
  · cases he; exact h.acceptRead _ h

/-- A command that ends with a new chain of devices (R341, R342). -/
theorem FaultInv.finishWithDev {s : State} (h : FaultInv s) (dev : List Device) (r : Result) (v : BitVec 64) :
    FaultInv (Machine.finish r v { s with dev := dev }) := FaultInv.finish (s := { s with dev := dev }) h r v

theorem FaultInv.attachRule {s : State} (h : FaultInv s) (parent : BitVec 8) (tag : BitVec 16) :
    FaultInv (attachRule parent tag s) := by
  unfold Machine.attachRule
  split
  · exact (h.raise _).endCmd _ _
  · split
    · exact h.finishWithDev ..
    · split
      · exact (h.raise _).endCmd _ _
      · exact h.finishWithDev ..

theorem FaultInv.detachRule {s : State} (h : FaultInv s) (tag : BitVec 16) : FaultInv (detachRule tag s) := by
  unfold Machine.detachRule
  split
  · exact h.finish _ _
  · exact h.finishWithDev ..

theorem FaultInv.findRule {s : State} (h : FaultInv s) (tag : BitVec 16) : FaultInv (findRule tag s) := by
  unfold Machine.findRule
  split <;> exact h.finish _ _

theorem FaultInv.restoreRule {s : State} (h : FaultInv s) : FaultInv (restoreRule s) := by
  unfold Machine.restoreRule
  dsimp only
  split
  · exact h
  · exact h.endCmd _ _

/-- A swap starts from power-on of a valid record, where no fault was raised (R51, R383). -/
theorem FaultInv.swapRule {s : State} (h : FaultInv s) (tag : BitVec 8) : FaultInv (swapRule tag s) := by
  unfold Machine.swapRule
  split
  · exact (h.raise _).endCmd _ _
  · next c hc => exact (swapped_core (swapTarget_valid hc) s).logRestart.fault.finish _ _

/-- Every operation keeps the invariant, whatever call it comes in. -/
theorem FaultInv.exec {s t : State} {i : Instr} (h : FaultInv s) (he : exec i s = .next t) : FaultInv t := by
  have hperf : FaultInv s.performing := h
  induction i using instr_byRule with
  | ensured i c hc =>
    rw [exec_of_ensuredCmd hc] at he
    cases he
    exact h.accept _ fun hs => (hperf.ensure hs c).settleAll
  | rdreg reg idx => exact h.execRdreg he
  | attach parent tag => cases he; exact h.accept _ fun _ => hperf.attachRule parent tag
  | detach tag => cases he; exact h.accept _ fun _ => hperf.detachRule tag
  | find tag => cases he; exact h.accept _ fun _ => hperf.findRule tag
  | save => cases he; exact h.accept _ fun _ => FaultInv.settleAll (s := saveRule s.performing) h
  | restore => cases he; exact h.accept _ fun _ => hperf.restoreRule.settleAll
  | swapVariant variant => cases he; exact h.accept _ fun _ => hperf.swapRule variant
  | bus i hi =>
    rw [exec_of_bus hi] at he
    rw [onBus_eq_next he]
    exact h.serveBus i

theorem FaultInv.step {s t : State} (h : FaultInv s) (he : step s = .next t) : FaultInv t := by
  obtain ⟨w, ws, i, -, -, -, hs⟩ | ⟨w, ws, r, -, -, -, hs⟩ | ⟨c, w, es, i, -, -, -, hs⟩ | ⟨c, w, es, r, -, -, -, hs⟩ |
    ⟨u, hm, hs⟩ | hs := step_cases s <;> rw [hs] at he
  · exact FaultInv.exec (s := { s with hostIn := ws, payload := w.payload }) h he
  · cases he
    exact FaultInv.accept (s := { s with hostIn := ws, payload := w.payload }) h _ fun _ => h
  · exact FaultInv.exec (s := { s with cpuIn := es }) h he
  · cases he
    exact FaultInv.busFault (s := { s with cpuIn := es }) h _
  · cases he
    exact h.micro hm
  · cases he
    exact h

/-- Settles O5: `raise` takes the first fault only, and no rule moves CTRL.STATE in FAULTED. -/
theorem faultOneBit : Obligations.FaultOneBit :=
  ⟨fun _ _ h he => h.step he, fun _ _ _ h he => h.exec he⟩

end Sys2Proof.Machine

namespace Sys2Proof.Machine

/-! What a command does after `ensure()` reads no outstanding call and takes no agent's answer (R17, R196). -/

/-- The operation neither reads nor changes the outstanding call (R17). -/
def IgnoresPend (f : State → State) : Prop := ∀ (p : Pend) (s : State), f { s with pend := p } = { f s with pend := p }

theorem IgnoresPend.unlessFaulted {f : State → State} (h : IgnoresPend f) : IgnoresPend (unlessFaulted f) := by
  intro p s
  by_cases hs : s.ctrl = .faulted
  · rw [unlessFaulted_of_faulted hs, unlessFaulted_of_faulted (s := { s with pend := p }) hs]
  · rw [unlessFaulted_of_not hs, unlessFaulted_of_not (s := { s with pend := p }) hs, h]

theorem ignoresPend_remap (i : Nat) (t : Target) : IgnoresPend (remap i t) := by
  intro p s
  simp only [remap, raise_setPend]
  split
  · split <;> rfl
  · rfl

theorem ignoresPend_changeMemPaged (want : Nat → SlotSrc) : IgnoresPend (changeMemPaged want) := by
  intro p s
  have hplan : ∀ ok : Target → Bool, pagedPlan ok want { s with pend := p } = pagedPlan ok want s := fun _ => rfl
  simp only [changeMemPaged, hplan, raise_setPend]
  split
  · split <;> rfl
  · rfl

theorem ignoresPend_applyScld : IgnoresPend applyScld := fun p s => ignoresPend_changeMemPaged (scldMapping s) p s

theorem ignoresPend_mapPagedWrite (pool : Bool) (mask : BitVec 8) : IgnoresPend (mapPagedWrite pool mask) :=
  fun p s => ignoresPend_applyScld p { s with hsr := mask, mode := BitVec.ofBool pool ++ s.mode.extractLsb' 0 7 }

theorem ignoresPend_remapLatch : IgnoresPend remapLatch := by
  intro p s
  have hrom : remap 0 ⟨.rom, .home, (romSel s.paging).toNat⟩ { s with pend := p }
      = { remap 0 ⟨.rom, .home, (romSel s.paging).toNat⟩ s with pend := p } := ignoresPend_remap _ _ p s
  simp only [remapLatch, hrom]
  exact (ignoresPend_remap _ _).unlessFaulted p _

theorem ignoresPend_writePaging (v : Byte) (forced : Bool) : IgnoresPend (writePaging v forced) := by
  intro p s
  unfold writePaging
  dsimp only
  split
  · rfl
  · exact ignoresPend_remapLatch p { s with paging := v.extractLsb' 0 6 }

theorem ignoresPend_writeReg (r : WritableReg) (v : BitVec 8) : IgnoresPend (writeReg r v) := by
  intro p s
  cases r with
  | border => rfl
  | paging => exact ignoresPend_writePaging v true p s
  | mode => exact ignoresPend_applyScld p { s with mode := v }
  | hsr => exact ignoresPend_applyScld p { s with hsr := v }

/-- The end of a command closes whatever call was outstanding (R191, R412). -/
theorem endCmd_setPend (r : Result) (v : BitVec 64) (p : Pend) (s : State) :
    endCmd r v { s with pend := p } = endCmd r v s := rfl

theorem writeThenNote_setPend {write : State → State} (h : IgnoresPend write) (p : Pend) (s : State) :
    writeThenNote write { s with pend := p } = writeThenNote write s := by
  have hnote : IgnoresPend (unlessFaulted fun s => note s.tsc s) :=
    IgnoresPend.unlessFaulted fun p s => note_setPend s.tsc p s
  rw [writeThenNote, h, hnote]
  exact endCmd_setPend .ok 0 p _

theorem startNmi_setPend (p : Pend) (s : State) : startNmi { s with pend := p } = startNmi s := by
  unfold startNmi
  dsimp only
  split <;> rfl

theorem wrregAfter_setPend (reg value : BitVec 8) (p : Pend) (s : State) :
    wrregAfter reg value { s with pend := p } = wrregAfter reg value s := by
  unfold wrregAfter
  dsimp only
  split
  · exact writeThenNote_setPend (ignoresPend_writeReg _ value) p s
  · rfl

/-- What a command does after `ensure()` does not depend on the call that was outstanding. -/
theorem afterEnsure_setPend (c : Cmd) (p : Pend) (s : State) : afterEnsure c { s with pend := p } = afterEnsure c s := by
  cases c with
  | ensureFrame => exact endCmd_setPend .ok 0 p s
  | runFrame => rfl
  | step dbg => rfl
  | reset hard => rfl
  | nmi => exact startNmi_setPend p { s with ctrl := .servicingNmi }
  | mapPaged pool mask => exact writeThenNote_setPend (ignoresPend_mapPagedWrite pool mask) p s
  | mapRomBank slot bank => exact writeThenNote_setPend (ignoresPend_remap _ _) p s
  | mapRamBank slot bank => exact writeThenNote_setPend (ignoresPend_remap _ _) p s
  | wrreg reg value => exact wrregAfter_setPend reg value p s

/-- The agents have as much still to say (R17). -/
theorem pendingEvents_of_queues {s t : State} (hcpu : t.cpuIn = s.cpuIn) (hdev : t.devIn = s.devIn) :
    pendingEvents t = pendingEvents s := by
  rw [pendingEvents, pendingEvents, hcpu, hdev]

theorem pendingEvents_writeThenNote {write : State → State} {s : State} (hcpu : (write s).cpuIn = s.cpuIn)
    (hdev : (write s).devIn = s.devIn) : pendingEvents (writeThenNote write s) = pendingEvents s := by
  have hnote : ∀ t : State, pendingEvents (unlessFaulted (fun s => note s.tsc s) t) = pendingEvents t := by
    intro t
    unfold unlessFaulted
    split
    · rfl
    · exact pendingEvents_of_queues (note_cpuIn t.tsc t) (note_devIn t.tsc t)
  rw [writeThenNote, pendingEvents_of_queues (endCmd_cpuIn ..) (endCmd_devIn ..), hnote, pendingEvents_of_queues hcpu hdev]

/-- What a command does after `ensure()`, up to its first call of an agent, takes nothing the agents have to say (R17). -/
theorem pendingEvents_afterEnsure (c : Cmd) (s : State) : pendingEvents (afterEnsure c s) = pendingEvents s := by
  cases c with
  | ensureFrame => exact pendingEvents_of_queues (endCmd_cpuIn ..) (endCmd_devIn ..)
  | runFrame =>
    show pendingEvents (runFrameLoop { s with ctrl := .running }) = _
    unfold runFrameLoop
    split
    · rfl
    · exact pendingEvents_of_queues (endCmd_cpuIn ..) (endCmd_devIn ..)
  | step dbg => rfl
  | reset hard => rfl
  | nmi => exact pendingEvents_startNmi { s with ctrl := .servicingNmi }
  | mapPaged pool mask => exact pendingEvents_writeThenNote (by simp) (by simp)
  | mapRomBank slot bank => exact pendingEvents_writeThenNote (by simp) (by simp)
  | mapRamBank slot bank => exact pendingEvents_writeThenNote (by simp) (by simp)
  | wrreg reg value =>
    show pendingEvents (wrregAfter reg value s) = _
    unfold wrregAfter
    split
    · exact pendingEvents_writeThenNote (by simp) (by simp)
    · exact pendingEvents_of_queues (endCmd_cpuIn ..) (endCmd_devIn ..)

/-! A command issued at frame-over is the command issued in the new frame (R198, R462). -/

/-- The devices' answers are the events the boundary takes; the others are still to be said. -/
theorem pendingEvents_newFrame {s : State} {replies : List (Byte × Bool)} {rest : List DevEvent}
    (hq : s.devIn = deviceReturns replies ++ rest) :
    pendingEvents s = replies.length + pendingEvents (s.newFrame rest) := by
  show s.cpuIn.length + s.devIn.length = replies.length + (s.cpuIn.length + rest.length)
  rw [hq, List.length_append, deviceReturns, List.length_map]
  omega

theorem pendingEvents_tellDevices_boundary (c : Cmd) (s : State) :
    pendingEvents (tellDevices (.boundary c) s) = pendingEvents s := by
  unfold tellDevices
  split
  · exact pendingEvents_afterEnsure c (wrap s)
  · rfl

/-- With the devices told, the wrap is the new frame, in which the command goes on (R166). -/
theorem afterNotice_boundary_told (c : Cmd) (p : Pend) (rest : List DevEvent) (s : State) :
    afterNotice (.boundary c) (s.told (.onFrameBoundary s.tsc) 0 p rest) = afterEnsure c (s.newFrame rest) :=
  afterEnsure_setPend c p (s.newFrame rest)

/-- `ensure()` at frame-over, with devices that return, is the boundary and then the command in the new frame (R196). -/
theorem settleAll_ensure_over {s : State} {replies : List (Byte × Bool)} {rest : List DevEvent} (hs : s.ctrl ≠ .faulted)
    (hover : s.cfg.n ≤ s.tsc.toNat) (hlen : replies.length = s.dev.length) (hq : s.devIn = deviceReturns replies ++ rest)
    (c : Cmd) : settleAll (ensure c s) = settleAll (afterEnsure c (s.newFrame rest)) := by
  have hens : ensure c s = tellDevices (.boundary c) s := by
    rw [ensure_eq]
    exact if_pos (decide_eq_true hover)
  obtain ⟨p, hp⟩ := settle_tellDevices (n := .boundary c) hs hlen hq
  rw [hens, settleAll, pendingEvents_tellDevices_boundary, pendingEvents_newFrame hq, hp, noticeAfter_boundary, settleAll,
    pendingEvents_afterEnsure]
  exact congrArg _ (afterNotice_boundary_told c p rest s)

/-- From TSC between N and 2N the new frame is in progress (R166). -/
theorem newFrame_inFrame {s : State} (hover : s.cfg.n ≤ s.tsc.toNat) (hlt : s.tsc.toNat < 2 * s.cfg.n)
    (rest : List DevEvent) : (s.newFrame rest).InFrame :=
  wrap_inFrame_of_lt hover hlt

/-- A command its variant has answers at frame-over what it answers in the new frame (R198, R462). -/
theorem exec_frameFirst {s : State} {replies : List (Byte × Bool)} {rest : List DevEvent} {i : Instr} {c : Cmd}
    (hr : s.Ready) (hover : s.cfg.n ≤ s.tsc.toNat) (hlt : s.tsc.toNat < 2 * s.cfg.n)
    (hlen : replies.length = s.dev.length) (hq : s.devIn = deviceReturns replies ++ rest) (hi : ensuredCmd i = some c)
    (hl : cmdLegal s.cfg.variant c = true) : exec i s = exec i (s.newFrame rest) := by
  have hnew : ensure c (s.newFrame rest).performing = afterEnsure c (s.performing.newFrame rest) :=
    ensure_of_inFrame (s := (s.newFrame rest).performing) (newFrame_inFrame hover hlt rest) c
  rw [exec_ensured_ready hi hr hl, exec_ensured_ready (s := s.newFrame rest) hi hr hl, hnew,
    settleAll_ensure_over (s := s.performing) hr.2 hover hlen hq]

/-- Settles O16: at frame-over each of these commands is its rule in the new frame. -/
theorem frameFirst : Obligations.FrameFirst := by
  intro s replies rest hr hover hlt hlen hq
  have hfirst : ∀ {i : Instr} {c : Cmd}, ensuredCmd i = some c → cmdLegal s.cfg.variant c = true →
      exec i s = exec i (s.newFrame rest) := exec_frameFirst hr hover hlt hlen hq
  refine ⟨fun i hi => ?_, fun _ => hfirst rfl rfl, fun _ => hfirst rfl rfl, fun _ _ hv => hfirst rfl (decide_eq_true hv),
    fun _ _ => hfirst rfl rfl, fun _ _ => hfirst rfl rfl, fun _ => hfirst rfl rfl, fun _ hv => hfirst rfl ?_,
    fun _ hv => ⟨hfirst rfl ?_, hfirst rfl ?_⟩⟩
  · simp only [List.mem_cons, List.not_mem_nil, or_false] at hi
    obtain rfl | rfl | rfl := hi <;> exact hfirst rfl rfl
  all_goals
    rw [hv]
    rfl

end Sys2Proof.Machine
